-- ==== Sys2Proof/Word.lean ====
section
/-! DEFINITION. The word types of memory and of the encoding (spec/00_scope.md R7, R8); the state's registers
have their own widths, in Machine/Params.lean. Every value is unsigned; the ISA has no sign extension. -/

namespace Sys2Proof

/-- A memory byte, or the field `kk` (20_memory.md R26; 30_encoding.md R42). -/
abbrev Byte := BitVec 8

/-- An instruction word (30_encoding.md R41). -/
abbrev Word := BitVec 16

/-- A 4-bit field: the index of a general register, a logical key, or a row count (30_encoding.md R42). -/
abbrev Nibble := BitVec 4

/-- The 12-bit field `nnn` (30_encoding.md R42). -/
abbrev Addr12 := BitVec 12

end Sys2Proof
end

