-- ==== Sys2Proof/Syntax.lean ====
section
/-! DEFINITION. The instruction set: one constructor per row of spec/opcode_table.json, in the table's order
(spec/30_encoding.md R46 Table O). The operands carry the widths of their fields (R42, R43), so every index is in range by
construction (10_state.md R13). -/

namespace Sys2Proof

/-- The 34 instructions of Table O; nothing else is an instruction (00_scope.md R2). -/
inductive Instr where
  /-- 00E0 -/
  | cls
  /-- 00EE -/
  | ret
  /-- 1nnn -/
  | jp (nnn : Addr12)
  /-- 2nnn -/
  | call (nnn : Addr12)
  /-- 3xkk -/
  | seImm (x : Nibble) (kk : Byte)
  /-- 4xkk -/
  | sneImm (x : Nibble) (kk : Byte)
  /-- 5xy0 -/
  | seReg (x y : Nibble)
  /-- 6xkk -/
  | ldImm (x : Nibble) (kk : Byte)
  /-- 7xkk -/
  | addImm (x : Nibble) (kk : Byte)
  /-- 8xy0 -/
  | ldReg (x y : Nibble)
  /-- 8xy1 -/
  | orReg (x y : Nibble)
  /-- 8xy2 -/
  | andReg (x y : Nibble)
  /-- 8xy3 -/
  | xorReg (x y : Nibble)
  /-- 8xy4 -/
  | addReg (x y : Nibble)
  /-- 8xy5 -/
  | subReg (x y : Nibble)
  /-- 8xy6; the meaning ignores y (42_alu.md R78) -/
  | shr (x y : Nibble)
  /-- 8xy7 -/
  | subn (x y : Nibble)
  /-- 8xyE; the meaning ignores y (42_alu.md R80) -/
  | shl (x y : Nibble)
  /-- 9xy0 -/
  | sneReg (x y : Nibble)
  /-- Annn -/
  | ldI (nnn : Addr12)
  /-- Bnnn -/
  | jpV0 (nnn : Addr12)
  /-- Cxkk -/
  | rnd (x : Nibble) (kk : Byte)
  /-- Dxyn -/
  | drw (x y n : Nibble)
  /-- Ex9E -/
  | skp (x : Nibble)
  /-- ExA1 -/
  | sknp (x : Nibble)
  /-- Fx07 -/
  | ldVxDt (x : Nibble)
  /-- Fx0A -/
  | ldVxK (x : Nibble)
  /-- Fx15 -/
  | ldDtVx (x : Nibble)
  /-- Fx18 -/
  | ldStVx (x : Nibble)
  /-- Fx1E -/
  | addI (x : Nibble)
  /-- Fx29 -/
  | ldF (x : Nibble)
  /-- Fx33 -/
  | ldB (x : Nibble)
  /-- Fx55 -/
  | storeRegs (x : Nibble)
  /-- Fx65 -/
  | loadRegs (x : Nibble)
  deriving DecidableEq, Repr

/-- The mnemonic of an instruction's row, as spec/opcode_table.json spells it (30_encoding.md R49). -/
def Instr.mnemonic : Instr → String
  | .cls => "CLS"
  | .ret => "RET"
  | .jp _ => "JP_nnn"
  | .call _ => "CALL_nnn"
  | .seImm _ _ => "SE_Vx__kk"
  | .sneImm _ _ => "SNE_Vx__kk"
  | .seReg _ _ => "SE_Vx__Vy"
  | .ldImm _ _ => "LD_Vx__kk"
  | .addImm _ _ => "ADD_Vx__kk"
  | .ldReg _ _ => "LD_Vx__Vy"
  | .orReg _ _ => "OR_Vx__Vy"
  | .andReg _ _ => "AND_Vx__Vy"
  | .xorReg _ _ => "XOR_Vx__Vy"
  | .addReg _ _ => "ADD_Vx__Vy"
  | .subReg _ _ => "SUB_Vx__Vy"
  | .shr _ _ => "SHR_Vx__Vy"
  | .subn _ _ => "SUBN_Vx__Vy"
  | .shl _ _ => "SHL_Vx__Vy"
  | .sneReg _ _ => "SNE_Vx__Vy"
  | .ldI _ => "LD_I__nnn"
  | .jpV0 _ => "JP_V0__nnn"
  | .rnd _ _ => "RND_Vx__kk"
  | .drw _ _ _ => "DRW_Vx__Vy__n"
  | .skp _ => "SKP_Vx"
  | .sknp _ => "SKNP_Vx"
  | .ldVxDt _ => "LD_Vx__DT"
  | .ldVxK _ => "LD_Vx__K"
  | .ldDtVx _ => "LD_DT__Vx"
  | .ldStVx _ => "LD_ST__Vx"
  | .addI _ => "ADD_I__Vx"
  | .ldF _ => "LD_F__Vx"
  | .ldB _ => "LD_B__Vx"
  | .storeRegs _ => "LD__I___Vx"
  | .loadRegs _ => "LD_Vx___I"

end Sys2Proof
end

