-- ==== Sys2Proof/Decode.lean ====
section
/-! DEFINITION. The decoder and the encoder (spec/30_encoding.md). The decoder follows the fields of R42 and the dispatch of
R45: by high nibble, then group 0 on the whole word, group 8 on the low nibble, groups E and F on the low byte, groups 5 and 9
on a zero low nibble. Table O's masks (R46) stand apart, in WellFormed.lean. -/

namespace Sys2Proof

/-- Why bytes are no instruction. -/
inductive DecodeError where
  /-- The word matches no row of Table O (30_encoding.md R47). -/
  | invalidOpcode (w : Word)
  /-- Fewer than the two bytes of an instruction (30_encoding.md R41). -/
  | truncated (bytes : List Byte)
  deriving DecidableEq, Repr

/-- op, nibble 0: w[15:12] (30_encoding.md R42 Table FLD). -/
def opField (w : Word) : Nibble := w.extractLsb' 12 4

/-- x, nibble 1: w[11:8]. -/
def xField (w : Word) : Nibble := w.extractLsb' 8 4

/-- y, nibble 2: w[7:4]. -/
def yField (w : Word) : Nibble := w.extractLsb' 4 4

/-- n, nibble 3: w[3:0]. -/
def nField (w : Word) : Nibble := w.extractLsb' 0 4

/-- kk, the low byte: w[7:0]. -/
def kkField (w : Word) : Byte := w.extractLsb' 0 8

/-- nnn, the low 12 bits: w[11:0]. -/
def nnnField (w : Word) : Addr12 := w.extractLsb' 0 12

/-- Group 0: only the exact words 0x00E0 and 0x00EE, the return first (30_encoding.md R45; notes/assumptions 19). -/
def decodeGroup0 (w : Word) : Except DecodeError Instr :=
  if w = 0x00EE then .ok .ret
  else if w = 0x00E0 then .ok .cls
  else .error (.invalidOpcode w)

/-- Groups 5 and 9: the low nibble must be 0 (30_encoding.md R45). -/
def decodeZeroNibble (w : Word) (i : Instr) : Except DecodeError Instr :=
  if nField w = 0 then .ok i else .error (.invalidOpcode w)

/-- Group 8, on the low nibble (30_encoding.md R45). -/
def decodeGroup8 (w : Word) : Except DecodeError Instr :=
  match (nField w).toNat with
  | 0x0 => .ok (.ldReg (xField w) (yField w))
  | 0x1 => .ok (.orReg (xField w) (yField w))
  | 0x2 => .ok (.andReg (xField w) (yField w))
  | 0x3 => .ok (.xorReg (xField w) (yField w))
  | 0x4 => .ok (.addReg (xField w) (yField w))
  | 0x5 => .ok (.subReg (xField w) (yField w))
  | 0x6 => .ok (.shr (xField w) (yField w))
  | 0x7 => .ok (.subn (xField w) (yField w))
  | 0xE => .ok (.shl (xField w) (yField w))
  | _ => .error (.invalidOpcode w)

/-- Group E, on the low byte (30_encoding.md R45; notes/assumptions 19). -/
def decodeGroupE (w : Word) : Except DecodeError Instr :=
  match (kkField w).toNat with
  | 0x9E => .ok (.skp (xField w))
  | 0xA1 => .ok (.sknp (xField w))
  | _ => .error (.invalidOpcode w)

/-- Group F, on the low byte (30_encoding.md R45; notes/assumptions 19). -/
def decodeGroupF (w : Word) : Except DecodeError Instr :=
  match (kkField w).toNat with
  | 0x07 => .ok (.ldVxDt (xField w))
  | 0x0A => .ok (.ldVxK (xField w))
  | 0x15 => .ok (.ldDtVx (xField w))
  | 0x18 => .ok (.ldStVx (xField w))
  | 0x1E => .ok (.addI (xField w))
  | 0x29 => .ok (.ldF (xField w))
  | 0x33 => .ok (.ldB (xField w))
  | 0x55 => .ok (.storeRegs (xField w))
  | 0x65 => .ok (.loadRegs (xField w))
  | _ => .error (.invalidOpcode w)

/-- Decode one instruction word (40_execution_cycle.md R54, 30_encoding.md R45). Total: a word outside Table O is rejected as
`invalidOpcode`. -/
def decodeWord (w : Word) : Except DecodeError Instr :=
  match (opField w).toNat with
  | 0x0 => decodeGroup0 w
  | 0x1 => .ok (.jp (nnnField w))
  | 0x2 => .ok (.call (nnnField w))
  | 0x3 => .ok (.seImm (xField w) (kkField w))
  | 0x4 => .ok (.sneImm (xField w) (kkField w))
  | 0x5 => decodeZeroNibble w (.seReg (xField w) (yField w))
  | 0x6 => .ok (.ldImm (xField w) (kkField w))
  | 0x7 => .ok (.addImm (xField w) (kkField w))
  | 0x8 => decodeGroup8 w
  | 0x9 => decodeZeroNibble w (.sneReg (xField w) (yField w))
  | 0xA => .ok (.ldI (nnnField w))
  | 0xB => .ok (.jpV0 (nnnField w))
  | 0xC => .ok (.rnd (xField w) (kkField w))
  | 0xD => .ok (.drw (xField w) (yField w) (nField w))
  | 0xE => decodeGroupE w
  | _ => decodeGroupF w

/-- A word from its two bytes, the first in bits 15:8 (20_memory.md R34). -/
def wordOfBytes (hi lo : Byte) : Word := hi ++ lo

/-- The two bytes of a word as memory holds them, high byte first (20_memory.md R34, 30_encoding.md R41). -/
def bytesOfWord (w : Word) : List Byte := [w.extractLsb' 8 8, w.extractLsb' 0 8]

/-- Decode the instruction at the head of a byte list, with the bytes after it (30_encoding.md R41: two bytes, always). -/
def decode : List Byte → Except DecodeError (Instr × List Byte)
  | hi :: lo :: rest =>
    match decodeWord (wordOfBytes hi lo) with
    | .ok i => .ok (i, rest)
    | .error e => .error e
  | bytes => .error (.truncated bytes)

/-- Format NNN: op and nnn (30_encoding.md R43 Table FMT). -/
def wordNNN (op : Nibble) (nnn : Addr12) : Word := op ++ nnn

/-- Format XKK: op, x and kk. -/
def wordXKK (op x : Nibble) (kk : Byte) : Word := op ++ x ++ kk

/-- Formats XYF and XYN: op, x, y and the low nibble. -/
def wordXYN (op x y n : Nibble) : Word := op ++ x ++ y ++ n

/-- The word of an instruction (30_encoding.md R43 Table FMT, R46 Table O; format XF is XKK with a function byte). -/
def encodeWord : Instr → Word
  | .cls => 0x00E0
  | .ret => 0x00EE
  | .jp nnn => wordNNN 0x1 nnn
  | .call nnn => wordNNN 0x2 nnn
  | .seImm x kk => wordXKK 0x3 x kk
  | .sneImm x kk => wordXKK 0x4 x kk
  | .seReg x y => wordXYN 0x5 x y 0x0
  | .ldImm x kk => wordXKK 0x6 x kk
  | .addImm x kk => wordXKK 0x7 x kk
  | .ldReg x y => wordXYN 0x8 x y 0x0
  | .orReg x y => wordXYN 0x8 x y 0x1
  | .andReg x y => wordXYN 0x8 x y 0x2
  | .xorReg x y => wordXYN 0x8 x y 0x3
  | .addReg x y => wordXYN 0x8 x y 0x4
  | .subReg x y => wordXYN 0x8 x y 0x5
  | .shr x y => wordXYN 0x8 x y 0x6
  | .subn x y => wordXYN 0x8 x y 0x7
  | .shl x y => wordXYN 0x8 x y 0xE
  | .sneReg x y => wordXYN 0x9 x y 0x0
  | .ldI nnn => wordNNN 0xA nnn
  | .jpV0 nnn => wordNNN 0xB nnn
  | .rnd x kk => wordXKK 0xC x kk
  | .drw x y n => wordXYN 0xD x y n
  | .skp x => wordXKK 0xE x 0x9E
  | .sknp x => wordXKK 0xE x 0xA1
  | .ldVxDt x => wordXKK 0xF x 0x07
  | .ldVxK x => wordXKK 0xF x 0x0A
  | .ldDtVx x => wordXKK 0xF x 0x15
  | .ldStVx x => wordXKK 0xF x 0x18
  | .addI x => wordXKK 0xF x 0x1E
  | .ldF x => wordXKK 0xF x 0x29
  | .ldB x => wordXKK 0xF x 0x33
  | .storeRegs x => wordXKK 0xF x 0x55
  | .loadRegs x => wordXKK 0xF x 0x65

/-- The bytes of an instruction in memory order (30_encoding.md R41). -/
def encode (i : Instr) : List Byte := bytesOfWord (encodeWord i)

/-- The word of a table row's bits: the instruction is one word, and bits above `nbits` are 0 (spec/opcode_table.json numbers
bit 0 as the word's least significant bit). -/
def tableWord (nbits w : Nat) : Word := BitVec.ofNat 16 (w % 2 ^ nbits)

/-- The instruction the decoder reads from a table row's bits, laid out as memory holds them; none where it refuses. -/
def decodeTableWord (nbits w : Nat) : Option Instr :=
  match decode (bytesOfWord (tableWord nbits w)) with
  | .ok (i, _) => some i
  | .error _ => none

end Sys2Proof
end

