-- ==== Sys2Proof/Config.lean ====
section
/-! DEFINITION. The free values of the CORE block: what the spec leaves to a draw (spec/00_scope.md R5 Table P rows RND and
KEY_CHOICE; spec/10_state.md R12). They have no body, so a claim about the model holds for every value they could take. The
state's counter `draws` is the argument, so that every draw is a fresh one. -/

namespace Sys2Proof

/-- RND: the free byte of the `n`-th draw; no law relates two draws (42_alu.md R81). Notes/assumptions 1. -/
opaque Config.rnd (n : Nat) : Byte

/-- KEY_CHOICE: which of several keys with a press edge the `n`-th draw takes, as an index into their list, reduced by the
list's length where it is used (40_execution_cycle.md R58). Notes/assumptions 2. -/
opaque Config.keyChoice (n : Nat) : Nat

end Sys2Proof
end

