-- ==== Sys2Proof/Machine/Params.lean ====
section
/-! DEFINITION. The implementation parameters of spec/00_scope.md R5 Table P, each a named constant that every definition reads
by its name, so that a corrected value changes one definition (R6). Where Table P derives a value from others, so does its
constant. KEY_STATES is the type `KeyState`; FONT and INIT_MEM are arguments of `State.construct`, with the defaults below; RND
and KEY_CHOICE are the free values of Config.lean; INSTR_PER_FRAME is an argument of `conventionalFrame`. -/

namespace Sys2Proof.Machine

/-- NUM_V: general registers (10_state.md R13). -/
abbrev Params.numV : Nat := 16

/-- V_WIDTH: bits of a general register (10_state.md R13). -/
abbrev Params.vWidth : Nat := 8

/-- I_WIDTH: bits of the index register (10_state.md R16). -/
abbrev Params.iWidth : Nat := 16

/-- PC_WIDTH: bits of the program counter (10_state.md R17). -/
abbrev Params.pcWidth : Nat := 16

/-- PC_RESET, the entry point (10_state.md R17). -/
abbrev Params.pcReset : BitVec Params.pcWidth := 0x200

/-- STACK_CAPACITY: return addresses the call stack holds (10_state.md R18). -/
abbrev Params.stackCapacity : Nat := 16

/-- STACK_ENTRY_WIDTH: bits of a return address held (10_state.md R19). -/
abbrev Params.stackEntryWidth : Nat := 16

/-- SP range 0..16: the depths SP takes, one more than the stack holds addresses (10_state.md R18). -/
abbrev Params.spRange : Nat := Params.stackCapacity + 1

/-- ADDR_BITS: the bits of an address (20_memory.md R26). -/
abbrev Params.addrBits : Nat := 12

/-- MEM_SIZE in bytes, all that an address reaches: 4096 (20_memory.md R26). -/
abbrev Params.memSize : Nat := 2 ^ Params.addrBits

/-- The highest address, 0xFFF (20_memory.md R32). -/
abbrev Params.addrMax : Nat := Params.memSize - 1

/-- The highest PC that fetch accepts, 0xFFE: the second byte of its word is the last byte of memory (40_execution_cycle.md R53). -/
abbrev Params.fetchMax : Nat := Params.addrMax - 1

/-- The highest PC that a step leaves, 0x10FE: past a skip at the highest fetchable address, or the largest V0 and the largest field
`nnn` added by Bnnn (40_execution_cycle.md R56; 41_control_flow.md R63). -/
abbrev Params.pcHighest : Nat := max (Params.fetchMax + 4) ((2 ^ Params.vWidth - 1) + (2 ^ 12 - 1))

/-- PROGRAM_BASE, where LOAD puts the ROM (20_memory.md R30). -/
abbrev Params.programBase : Nat := 0x200

/-- RESERVED_LO: the reserved region begins here (20_memory.md R27). It is no protection (R31), so no meaning reads it. -/
abbrev Params.reservedLo : Nat := 0x000

/-- RESERVED_HI: the reserved region ends below the program, at 0x1FF (20_memory.md R27). -/
abbrev Params.reservedHi : Nat := Params.programBase - 1

/-- ROM_MAX in bytes, the program region's size: 3584 (00_scope.md Table P, 20_memory.md R30). -/
abbrev Params.romMax : Nat := Params.memSize - Params.programBase

/-- FONT_BASE, the address of glyph 0 (20_memory.md R27). -/
abbrev Params.fontBase : Nat := 0x000

/-- FONT_GLYPH_BYTES: bytes of a glyph, and the stride of Fx29 (20_memory.md R27, 43_index_memory.md R84). -/
abbrev Params.glyphBytes : Nat := 5

/-- FONT_GLYPHS: the digits 0 to F (20_memory.md R27). -/
abbrev Params.fontGlyphs : Nat := 16

/-- The bytes of FONT: 80 (20_memory.md R28). -/
abbrev Params.fontBytes : Nat := Params.fontGlyphs * Params.glyphBytes

/-- FX1E_LIMIT: a sum above it sets VF (43_index_memory.md R83). -/
abbrev Params.fx1eLimit : Nat := 0xFFF

/-- FB_W, columns of the framebuffer (10_state.md R22). -/
abbrev Params.fbWidth : Nat := 64

/-- FB_H, rows of the framebuffer (10_state.md R22). -/
abbrev Params.fbHeight : Nat := 32

/-- NUM_KEYS (10_state.md R24). -/
abbrev Params.numKeys : Nat := 16

/-- DT_WIDTH: bits of the delay timer (10_state.md R20). -/
abbrev Params.dtWidth : Nat := 8

/-- ST_WIDTH: bits of the sound timer (10_state.md R20). -/
abbrev Params.stWidth : Nat := 8

/-- TIMER_HZ: how often the host ticks the timers. Timing only: no rule depends on it, so no definition reads it
(60_exceptions.md R106, 70_reset_and_hazards.md R119; notes/assumptions 34). -/
abbrev Params.timerHz : Nat := 60

/-- FONT: the 80 glyph bytes at 0x000-0x04F, five per digit 0 to F. PRESUMED: the source does not list the bytes; these are the
spec's default Table F, from general knowledge (20_memory.md R28). UNSAFE (notes/assumptions 6). -/
def Params.font : List Byte :=
  [0xF0, 0x90, 0x90, 0x90, 0xF0,  0x20, 0x60, 0x20, 0x20, 0x70,
   0xF0, 0x10, 0xF0, 0x80, 0xF0,  0xF0, 0x10, 0xF0, 0x10, 0xF0,
   0x90, 0x90, 0xF0, 0x10, 0x10,  0xF0, 0x80, 0xF0, 0x10, 0xF0,
   0xF0, 0x80, 0xF0, 0x90, 0xF0,  0xF0, 0x10, 0x20, 0x40, 0x40] ++
  [0xF0, 0x90, 0xF0, 0x90, 0xF0,  0xF0, 0x90, 0xF0, 0x10, 0xF0,
   0xF0, 0x90, 0xF0, 0x90, 0x90,  0xE0, 0x90, 0xE0, 0x90, 0xE0,
   0xF0, 0x80, 0x80, 0x80, 0xF0,  0xE0, 0x90, 0x90, 0x90, 0xE0,
   0xF0, 0x80, 0xF0, 0x80, 0xF0,  0xF0, 0x80, 0xF0, 0x80, 0x80]

/-- INIT_MEM in `State.reset`: the byte at every address outside the font and the ROM. DESIGN CHOICE: the spec leaves it OPEN
(20_memory.md R29); `State.construct` takes any other one as its argument. UNSAFE (notes/assumptions 7). -/
abbrev Params.initByte : Byte := 0

/-! The types of the state's registers and keys. -/

/-- A general register (10_state.md R13). -/
abbrev VByte := BitVec Params.vWidth

/-- The index register (10_state.md R16). -/
abbrev IndexWord := BitVec Params.iWidth

/-- The program counter (10_state.md R17). -/
abbrev PcWord := BitVec Params.pcWidth

/-- A logical key, 0x0 to 0xF (10_state.md R24); the key index of KEY_EVENT (40_execution_cycle.md R50). -/
abbrev KeyIndex := Fin Params.numKeys

/-- A return address held on the call stack (10_state.md R19). -/
abbrev StackWord := BitVec Params.stackEntryWidth

end Sys2Proof.Machine
end

