-- ==== Sys2Proof/Machine/State.lean ====
section
/-! DEFINITION. The state of the CORE block (spec/10_state.md R11, `Arch`), the reasons a step can stop, and the state after reset
(spec/70_reset_and_hazards.md R115 Table R). `State` is that record and, beside it, two parameters of the step that R12 names, held
as plain data (notes/assumptions 3 and 4). -/

namespace Sys2Proof.Machine

/-- The state of one logical key (10_state.md R24). -/
inductive KeyState where
  | released
  | pressed
  | held
  deriving DecidableEq, Repr

/-- What a key event reports (60_exceptions.md R108). -/
inductive KeyMove where
  | press
  | release
  deriving DecidableEq, Repr

/-- The errors of 60_exceptions.md R98 Table E, with the value each records. An error is an outcome of the hardware, latched in
FAULT (R100): raising one is a next state, not a fault of the model. -/
inductive Error where
  /-- Code 1: the fetched word matches no row of Table O. -/
  | invalidOpcode (w : Word)
  /-- Code 2: 2nnn with SP = 16. -/
  | stackOverflow
  /-- Code 3: 00EE with SP = 0. -/
  | stackUnderflow
  /-- Code 4: PC > 0xFFE. -/
  | fetchOutOfRange (pc : PcWord)
  /-- Code 5: an access address above 0xFFF; the smallest such address. -/
  | addressOutOfRange (a : Nat)
  /-- Code 6: a key test with Vx > 0xF. -/
  | keyIndexOutOfRange (v : VByte)
  deriving DecidableEq, Repr

/-- The host's transactions (40_execution_cycle.md R50 Table T). -/
inductive Transaction where
  | load (rom : List Byte)
  | tickInstr
  | tickTimer
  | keyEvent (k : KeyIndex) (p : KeyMove)
  | frameReset
  | fbRead
  | dirtyQuery
  | timerRead
  deriving DecidableEq, Repr

/-- Memory as address and byte pairs in the canonical form `Memory.wf` (Machine/Ops.lean). -/
abbrev Memory := List Host.Cell

/-- FB[col][row], 64 columns of 32 pixels, true for a lit one (10_state.md R22). -/
abbrev FrameBuffer := Vector (Vector Bool Params.fbHeight) Params.fbWidth

/-- The architectural state of the block: the record of 10_state.md R11, with exactly its fields. -/
structure Arch where
  /-- V0 to VF (R13); VF is the flag register (R14). -/
  v        : Vector VByte Params.numV
  /-- The index register I (R16). -/
  i        : IndexWord
  /-- The program counter (R17). -/
  pc       : PcWord
  /-- SP, the depth of the call stack, 0 to 16 (R18). -/
  sp       : Fin Params.spRange
  /-- STACK[0..15] (R19). -/
  stack    : Vector StackWord Params.stackCapacity
  /-- MEM[0..4095] (20_memory.md R26). -/
  mem      : Memory
  /-- The framebuffer (R22). -/
  fb       : FrameBuffer
  /-- DIRTY (R23). -/
  dirty    : Bool
  /-- DT, the delay timer (R20). -/
  dt       : BitVec Params.dtWidth
  /-- ST, the sound timer (R20). -/
  st       : BitVec Params.stWidth
  /-- WAITING: true is WaitingForKey, false is Running (R21). -/
  waiting  : Bool
  /-- WAIT_REG, the register a key-wait writes (R21). -/
  waitReg  : Nibble
  /-- KEY[0..15] (R24). -/
  keys     : Vector KeyState Params.numKeys
  /-- KEY_FRAME (R24). -/
  keyFrame : Bool
  /-- FAULT: none, or the error a tick returned (R25). -/
  fault    : Option Error
  deriving DecidableEq, Repr

/-- The state of a run: the architectural state, and the two parameters of the step that 10_state.md R12 names and that no program
holds, kept beside it as plain data. -/
structure State extends Arch where
  /-- The model's own: how many free draws have been taken (R12; notes/assumptions 3). -/
  draws    : Nat
  /-- The model's own: the transactions the host issues next, oldest first; empty means TICK_INSTR (R12; notes/assumptions 4). -/
  schedule : List Transaction
  deriving DecidableEq, Repr

/-- Why a step stops. -/
inductive Fault where
  /-- Raised by every state-changing transaction issued in a state with FAULT = e: it has no step (60_exceptions.md R100). SAFE:
  the hardware of the spec takes no step there either (notes/assumptions 5). -/
  | errorLatched (e : Error)
  deriving DecidableEq, Repr

/-- Why the model gives no meaning. -/
inductive Refusal where
  /-- Only an arm of `exec` answers this, for an instruction without a meaning; no arm does now. SAFE: the run stops. -/
  | notModelled (mnemonic : String)
  /-- Raised by LOAD of a ROM of more than 3584 bytes, which the host refuses: no launch state exists (20_memory.md R30). SAFE: the
  run stops where the spec has no run (notes/assumptions 10). -/
  | romTooLarge (length : Nat)
  deriving DecidableEq, Repr

/-- The answer of an instruction, a transaction or a step. -/
abbrev Outcome := Host.Outcome State Fault Refusal

/-- The state right after construction (70_reset_and_hazards.md R115 Table R), before LOAD: registers zeroed, PC = 0x200, font in
place (the list is empty because an unlisted address reads as the font or INIT_MEM, `Memory.unlisted`). STACK and INIT_MEM are
the model's choices (notes/assumptions 7, 8), the values of DT to KEY_FRAME the spec's decision D24 (notes/assumptions 9). -/
def State.reset : State where
  v        := Vector.replicate _ 0
  i        := 0
  pc       := Params.pcReset
  sp       := 0
  stack    := Vector.replicate _ 0
  mem      := []
  fb       := Vector.replicate _ (Vector.replicate _ false)
  dirty    := false
  dt       := 0
  st       := 0
  waiting  := false
  waitReg  := 0
  keys     := Vector.replicate _ .released
  keyFrame := false
  fault    := none
  draws    := 0
  schedule := []

end Sys2Proof.Machine
end

