-- ==== Sys2Proof/WellFormed.lean ====
section
/-! DEFINITION. What is well formed before it runs: an instruction word (spec/30_encoding.md R46, R47: it matches a row of
Table O) and a ROM image (spec/20_memory.md R30: it fits the program region). The operands of `Instr` carry their field
widths, so no term of `Instr` is ill formed (10_state.md R13) and there is no check on one. -/

namespace Sys2Proof

/-- A row of Table O: a word `w` is this row's instruction when `w &&& mask = pattern` (30_encoding.md R46). -/
structure OpcodeRow where
  mnemonic : String
  pattern  : Word
  mask     : Word
  deriving DecidableEq, Repr

/-- Rows 00E0 to 8xy1 of Table O. -/
def opcodeRowsLow : List OpcodeRow :=
  [
    ⟨"CLS", 0x00E0, 0xFFFF⟩,
    ⟨"RET", 0x00EE, 0xFFFF⟩,
    ⟨"JP_nnn", 0x1000, 0xF000⟩,
    ⟨"CALL_nnn", 0x2000, 0xF000⟩,
    ⟨"SE_Vx__kk", 0x3000, 0xF000⟩,
    ⟨"SNE_Vx__kk", 0x4000, 0xF000⟩,
    ⟨"SE_Vx__Vy", 0x5000, 0xF00F⟩,
    ⟨"LD_Vx__kk", 0x6000, 0xF000⟩,
    ⟨"ADD_Vx__kk", 0x7000, 0xF000⟩,
    ⟨"LD_Vx__Vy", 0x8000, 0xF00F⟩,
    ⟨"OR_Vx__Vy", 0x8001, 0xF00F⟩
  ]

/-- Rows 8xy2 to Dxyn of Table O. -/
def opcodeRowsMid : List OpcodeRow :=
  [
    ⟨"AND_Vx__Vy", 0x8002, 0xF00F⟩,
    ⟨"XOR_Vx__Vy", 0x8003, 0xF00F⟩,
    ⟨"ADD_Vx__Vy", 0x8004, 0xF00F⟩,
    ⟨"SUB_Vx__Vy", 0x8005, 0xF00F⟩,
    ⟨"SHR_Vx__Vy", 0x8006, 0xF00F⟩,
    ⟨"SUBN_Vx__Vy", 0x8007, 0xF00F⟩,
    ⟨"SHL_Vx__Vy", 0x800E, 0xF00F⟩,
    ⟨"SNE_Vx__Vy", 0x9000, 0xF00F⟩,
    ⟨"LD_I__nnn", 0xA000, 0xF000⟩,
    ⟨"JP_V0__nnn", 0xB000, 0xF000⟩,
    ⟨"RND_Vx__kk", 0xC000, 0xF000⟩,
    ⟨"DRW_Vx__Vy__n", 0xD000, 0xF000⟩
  ]

/-- Rows Ex9E to Fx65 of Table O. -/
def opcodeRowsHigh : List OpcodeRow :=
  [
    ⟨"SKP_Vx", 0xE09E, 0xF0FF⟩,
    ⟨"SKNP_Vx", 0xE0A1, 0xF0FF⟩,
    ⟨"LD_Vx__DT", 0xF007, 0xF0FF⟩,
    ⟨"LD_Vx__K", 0xF00A, 0xF0FF⟩,
    ⟨"LD_DT__Vx", 0xF015, 0xF0FF⟩,
    ⟨"LD_ST__Vx", 0xF018, 0xF0FF⟩,
    ⟨"ADD_I__Vx", 0xF01E, 0xF0FF⟩,
    ⟨"LD_F__Vx", 0xF029, 0xF0FF⟩,
    ⟨"LD_B__Vx", 0xF033, 0xF0FF⟩,
    ⟨"LD__I___Vx", 0xF055, 0xF0FF⟩,
    ⟨"LD_Vx___I", 0xF065, 0xF0FF⟩
  ]

/-- Table O, one row per instruction (30_encoding.md R46). -/
def opcodeRows : List OpcodeRow := opcodeRowsLow ++ opcodeRowsMid ++ opcodeRowsHigh

/-- The word matches the row (30_encoding.md R46). -/
def OpcodeRow.matchesWord (r : OpcodeRow) (w : Word) : Bool := w &&& r.mask == r.pattern

/-- The rows of Table O that a word matches: one for a valid word, none for an invalid one (30_encoding.md R46, R47). -/
def matchingRows (w : Word) : List OpcodeRow := opcodeRows.filter (fun r => r.matchesWord w)

/-- A valid opcode is a word that matches a row of Table O (00_scope.md Glossary, 30_encoding.md R47). -/
def validWord (w : Word) : Bool := opcodeRows.any (fun r => r.matchesWord w)

/-- The bytes of a ROM image fit between 0x200 and 0xFFF: at most 3584 (20_memory.md R30). -/
def romFits (rom : List Byte) : Bool := rom.length ≤ Machine.Params.romMax

end Sys2Proof
end

