-- ==== Sys2Proof/Machine/Ops.lean ====
section
/-! DEFINITION. The named operations over memory, registers, framebuffer, call stack and keys that every meaning is written
with; raising an error (spec/60_exceptions.md R100) is one of them. -/

namespace Sys2Proof.Machine

/-! ## Memory (spec/20_memory.md) -/

/-- The byte at an address after construction: the font's from FONT_BASE up, else INIT_MEM's (R27, R28, R29). -/
def initialByte (font : List Byte) (initMem : Nat → Byte) (a : Nat) : Byte :=
  if a < Params.fontBase then initMem a else font.getD (a - Params.fontBase) (initMem a)

/-- What an address that memory does not list reads as: the default font's byte, else the byte taken for INIT_MEM (R28, R29;
notes/assumptions 6, 7). -/
def Memory.unlisted (a : Nat) : Byte := initialByte Params.font (fun _ => Params.initByte) a

/-- The canonical form: addresses strictly rising and below 4096, and no cell that holds what its address would read as anyway. -/
abbrev Memory.wf (m : Memory) : Prop :=
  m.Pairwise (fun c d => c.1 < d.1) ∧ ∀ c ∈ m, c.1 < Params.memSize ∧ c.2 ≠ Memory.unlisted c.1

/-- The byte at an address (R32 `MEM[a]`; the range check is `accessError`). -/
def Memory.read : Memory → Nat → Byte
  | [], a => Memory.unlisted a
  | c :: m, a => if a = c.1 then c.2 else Memory.read m a

/-- Put a cell in its place. -/
def Memory.insertCell : Memory → Nat → Byte → Memory
  | [], a, b => [(a, b)]
  | c :: m, a, b =>
    if a < c.1 then (a, b) :: c :: m
    else if a = c.1 then (a, b) :: m
    else c :: Memory.insertCell m a b

/-- Drop the cell of an address. -/
def Memory.eraseCell (m : Memory) (a : Nat) : Memory := m.filter (fun c => c.1 != a)

/-- Write one byte (R32 `MEM[a] <- v`), keeping the canonical form. -/
def Memory.write (m : Memory) (a : Nat) (b : Byte) : Memory :=
  if b = Memory.unlisted a then Memory.eraseCell m a else Memory.insertCell m a b

/-- `n` bytes at `base`, lowest address first (R33). -/
def Memory.readBytes (m : Memory) (base : Nat) : Nat → List Byte
  | 0 => []
  | n + 1 => Memory.read m base :: Memory.readBytes m (base + 1) n

/-- Write bytes at `base`, lowest address first (R33). -/
def Memory.writeBytes (m : Memory) (base : Nat) : List Byte → Memory
  | [] => m
  | b :: bs => Memory.writeBytes (Memory.write m base b) (base + 1) bs

/-- The canonical memory that holds `f a` at every address `a`. -/
def Memory.ofBytes (f : Nat → Byte) : Memory :=
  (List.range Params.memSize).filterMap (fun a => if f a = Memory.unlisted a then none else some (a, f a))

/-- The state after construction for any FONT and any INIT_MEM, the two parameters of 20_memory.md R28 and R29: the font bytes from
FONT_BASE up, INIT_MEM elsewhere, everything else as `State.reset`. -/
def State.construct (font : List Byte) (initMem : Nat → Byte) : State :=
  { State.reset with mem := Memory.ofBytes (initialByte font initMem) }

/-- The byte of this state's memory at `a`. -/
def State.readMem (s : State) (a : Nat) : Byte := s.mem.read a

/-- Write bytes into this state's memory from `base` up. -/
def State.storeBytes (s : State) (base : Nat) (bs : List Byte) : State := { s with mem := s.mem.writeBytes base bs }

/-! ## Registers (spec/10_state.md R13 to R16) -/

/-- Every value of a register field names a register (R13). -/
theorem isReg (x : Nibble) : x.toNat < Params.numV := Nat.lt_of_lt_of_le x.isLt (by decide)

/-- Read general register x. -/
def State.getV (s : State) (x : Nibble) : VByte := s.v[x.toNat]'(isReg x)

/-- Write general register x. -/
def State.setV (s : State) (x : Nibble) (b : VByte) : State := { s with v := s.v.set x.toNat b (isReg x) }

/-- The number of the flag register VF (R14). -/
abbrev regVF : Nibble := 0xF

/-- Write the index register. -/
def State.setI (s : State) (w : IndexWord) : State := { s with i := w }

/-- V0 to Vx, in order, as memory bytes (43_index_memory.md R86). -/
def State.regsUpTo (s : State) (x : Nibble) : List Byte := (s.v.toList.take (x.toNat + 1)).map (BitVec.setWidth 8)

/-- Write a block of bytes to the registers from V0 up; registers past its end keep their values (43_index_memory.md R87). -/
def State.setRegs (s : State) (bs : List Byte) : State :=
  { s with v := Vector.ofFn (fun k => (bs.map (BitVec.setWidth Params.vWidth)).getD k.val s.v[k]) }

/-! ## Program counter (spec/40_execution_cycle.md R56) -/

/-- The advance policies. -/
inductive Advance where
  /-- +2, the default. -/
  | single
  /-- +4, a satisfied skip. -/
  | skip
  /-- PC stays as the instruction left it. -/
  | none
  deriving DecidableEq, Repr

/-- Apply an advance policy at the end of an instruction; the sum is 16-bit (R56; notes/assumptions 37). -/
def State.advance (s : State) : Advance → State
  | .single => { s with pc := s.pc + 2 }
  | .skip => { s with pc := s.pc + 4 }
  | .none => s

/-- SKIP when the condition holds, else SINGLE. -/
def skipIf (c : Bool) : Advance := if c then .skip else .single

/-- Set the program counter; the instruction then uses advance NONE. -/
def State.setPc (s : State) (w : PcWord) : State := { s with pc := w }

/-! ## Call stack (spec/10_state.md R18, R19) -/

/-- Push an entry on a stack that is not full: STACK[SP] <- w; SP <- SP + 1 (41_control_flow.md R61). -/
def State.push (s : State) (w : StackWord) (h : s.sp.val < Params.stackCapacity) : State :=
  { s with stack := s.stack.set s.sp.val w h, sp := ⟨s.sp.val + 1, Nat.succ_lt_succ h⟩ }

/-- The top entry of a stack that is not empty is one of its entries. -/
theorem isHeld {sp : Fin Params.spRange} (h : 0 < sp.val) : sp.val - 1 < Params.stackCapacity :=
  Nat.sub_lt_right_of_lt_add h sp.isLt

/-- Pop into PC from a stack that is not empty: SP <- SP - 1; PC <- STACK[SP]; the entry stays (41_control_flow.md R62). -/
def State.popToPc (s : State) (h : 0 < s.sp.val) : State :=
  { s with
    sp := ⟨s.sp.val - 1, Nat.lt_of_le_of_lt (Nat.sub_le _ _) s.sp.isLt⟩
    pc := (s.stack[s.sp.val - 1]'(isHeld h)).setWidth Params.pcWidth }

/-! ## Errors (spec/60_exceptions.md R98, R100) -/

/-- The codes of Table E (R98; notes/assumptions 38). -/
def Error.code : Error → Nat
  | .invalidOpcode _ => 1
  | .stackOverflow => 2
  | .stackUnderflow => 3
  | .fetchOutOfRange _ => 4
  | .addressOutOfRange _ => 5
  | .keyIndexOutOfRange _ => 6

/-- FAULT <- e, and nothing else (R100; 10_state.md R25). -/
def State.latch (s : State) (e : Error) : State := { s with fault := some e }

/-- Raise an error: the tick ends with nothing written but FAULT, and PC at the instruction that raised it (R100). The ONE
operation every error goes through; there is no trap, vector or return from one (R101; notes/assumptions 5). -/
def raise (e : Error) (s : State) : Outcome := .next (s.latch e)

/-- The addresses of an access of `n` bytes: I + k for k below n, unbounded (20_memory.md R33). -/
def accessAddrs (base : IndexWord) (n : Nat) : List Nat := (List.range n).map (fun k => base.toNat + k)

/-- The check every access makes before anything is written: the smallest address above 0xFFF is AddressOutOfRange (20_memory.md R33;
notes/assumptions 15). -/
def accessError (base : IndexWord) (n : Nat) : Option Error :=
  ((accessAddrs base n).find? (fun a => decide (Params.addrMax < a))).map .addressOutOfRange

/-- Go on to `t` when all `n` bytes at I are in memory, else raise (20_memory.md R33). -/
def guardAccess (s : State) (n : Nat) (t : State) : Outcome :=
  match accessError s.i n with
  | some e => raise e s
  | none => .next t

/-! ## Framebuffer (spec/10_state.md R22; spec/44_display.md) -/

/-- The pixel at a column and row; false outside the 64 x 32 grid, which no instruction reads. -/
def FrameBuffer.get (fb : FrameBuffer) (col row : Nat) : Bool :=
  if h : col < Params.fbWidth ∧ row < Params.fbHeight then (fb[col]'h.1)[row]'h.2 else false

/-- Toggle the pixel at a column and row; nothing outside the grid. -/
def FrameBuffer.toggle (fb : FrameBuffer) (col row : Nat) : FrameBuffer :=
  if h : col < Params.fbWidth ∧ row < Params.fbHeight then
    fb.set col ((fb[col]'h.1).set row (!(fb[col]'h.1)[row]'h.2) h.2) h.1
  else fb

/-- All pixels off (44_display.md R88). -/
def blankFrame : FrameBuffer := Vector.replicate _ (Vector.replicate _ false)

/-- What a draw works on: the framebuffer, the collision so far, and DIRTY. -/
structure Canvas where
  fb        : FrameBuffer
  collision : Bool
  dirty     : Bool
  deriving DecidableEq, Repr

/-- Draw one sprite bit that is 1: a lit pixel under it is a collision, the pixel is toggled, DIRTY is set (44_display.md R89). -/
def Canvas.drawPixel (c : Canvas) (px py : Nat) : Canvas :=
  { fb := c.fb.toggle px py, collision := c.collision || c.fb.get px py, dirty := true }

/-- Draw the bits `bs` of a row byte, 0 the leftmost (bit 7 of the byte), ending the row at column 64 (44_display.md R89). -/
def drawBits (row : Byte) (xp py : Nat) : List Nat → Canvas → Canvas
  | [], c => c
  | b :: bs, c =>
    if Params.fbWidth ≤ xp + b then c
    else drawBits row xp py bs (if row.getLsbD (7 - b) then c.drawPixel (xp + b) py else c)

/-- Draw rows downward from `py`, skipping rows at 32 and below (44_display.md R89; notes/assumptions 27). -/
def drawRows (xp : Nat) : Nat → List Byte → Canvas → Canvas
  | _, [], c => c
  | py, row :: rows, c =>
    drawRows xp (py + 1) rows (if Params.fbHeight ≤ py then c else drawBits row xp py (List.range 8) c)

/-! ## Keys (spec/60_exceptions.md R108, R109) -/

/-- The state of logical key k. -/
def State.getKey (s : State) (k : KeyIndex) : KeyState := s.keys[k.val]'k.isLt

/-- Set the state of logical key k. -/
def State.setKey (s : State) (k : KeyIndex) (q : KeyState) : State := { s with keys := s.keys.set k.val q k.isLt }

/-- A key counts as pressed in Pressed and in Held (R109; notes/assumptions 29). -/
def KeyState.isPressed : KeyState → Bool
  | .released => false
  | .pressed => true
  | .held => true

/-- Table KL's new key state (R108). -/
def KeyState.after : KeyState → KeyMove → KeyState
  | .released, .press => .pressed
  | .pressed, .press => .held
  | .held, .press => .held
  | _, .release => .released

/-- A press edge: a press event that moves a key from Released to Pressed (R108; notes/assumptions 30). -/
def isPressEdge (q : KeyState) (p : KeyMove) : Bool := q == .released && p == .press

/-! ## Free draws (spec/10_state.md R12) -/

/-- Count one draw as taken, so that the next draw is a fresh one. -/
def State.nextDraw (s : State) : State := { s with draws := s.draws + 1 }

/-- RND: the free byte of this draw (42_alu.md R81; notes/assumptions 1). -/
def State.rndByte (s : State) : Byte := Config.rnd s.draws

/-- KEY_CHOICE: one key of a non-empty list, any of them; a single key leaves no choice (40_execution_cycle.md R58;
notes/assumptions 2). -/
def chooseKey (draw : Nat) (k : KeyIndex) : List KeyIndex → KeyIndex
  | [] => k
  | ks => (k :: ks).getD (Config.keyChoice draw % (ks.length + 1)) k

end Sys2Proof.Machine
end

