-- ==== Sys2Proof/Machine/Flags.lean ====
section
/-! DEFINITION. Every flag computation (spec/10_state.md R14, R15; spec/42_alu.md R69; spec/43_index_memory.md R83). VF is the only flag. -/

namespace Sys2Proof.Machine

/-- A flag as the byte VF holds: 1 or 0 (00_scope.md R8). -/
def flagByte (b : Bool) : VByte := if b then 1 else 0

/-- Write the flag register. -/
def State.setFlag (s : State) (b : Bool) : State := s.setV regVF (flagByte b)

/-- 8xy4: the sum exceeds 0xFF, the greatest value of a register (42_alu.md R76). -/
def carryFlag (a b : VByte) : Bool := decide (2 ^ Params.vWidth - 1 < a.toNat + b.toNat)

/-- 8xy5 and 8xy7: no borrow in a - b, that is a >= b (42_alu.md R77, R79). -/
def noBorrowFlag (a b : VByte) : Bool := decide (b.toNat ≤ a.toNat)

/-- 8xy6: the bit shifted out to the right (42_alu.md R78). -/
def lowBitFlag (a : VByte) : Bool := a.getLsbD 0

/-- 8xyE: the bit shifted out to the left (42_alu.md R80). -/
def highBitFlag (a : VByte) : Bool := a.getLsbD (Params.vWidth - 1)

/-- Fx1E: the unbounded sum exceeds 0xFFF (43_index_memory.md R83; notes/assumptions 23). -/
def rangeFlag (i : IndexWord) (b : VByte) : Bool := decide (Params.fx1eLimit < i.toNat + b.toNat)

/-- A result to Vx and then a flag to VF, which overwrites the result when x is F (10_state.md R15), and advance SINGLE. -/
def State.resultAndFlag (s : State) (x : Nibble) (r : VByte) (flag : Bool) : State :=
  ((s.setV x r).setFlag flag).advance .single

end Sys2Proof.Machine
end

