-- ==== Sys2Proof/Machine/Operands.lean ====
section
/-! DEFINITION. The operand forms (spec/30_encoding.md R44): immediates zero-extended, the digits Fx33 stores, the glyph address,
the sprite bytes and its start position. -/

namespace Sys2Proof.Machine

/-- `zext_16(nnn)`, an address as a jump, call or index value, at its register's width (30_encoding.md R44). -/
def addrOperand {w : Nat} (nnn : Addr12) : BitVec w := nnn.setWidth w

/-- `zext_16(v)` of a general register, at the width of PC or I (00_scope.md R8). -/
def byteOperand {w : Nat} (b : VByte) : BitVec w := b.setWidth w

/-- The immediate `kk` as a register value (30_encoding.md R44). -/
def immOperand (kk : Byte) : VByte := kk.setWidth Params.vWidth

/-- The target of Bnnn: V0 + nnn, at most 0x10FE (41_control_flow.md R63). -/
def offsetTarget (v0 : VByte) (nnn : Addr12) : PcWord := byteOperand v0 + addrOperand nnn

/-- The address of the glyph of a digit, 5 * Vx, not masked (43_index_memory.md R84; notes/assumptions 24). -/
def glyphAddr (v : VByte) : IndexWord := byteOperand v * BitVec.ofNat Params.iWidth Params.glyphBytes

/-- The decimal digits of a byte: hundreds, tens, ones (43_index_memory.md R85). -/
def bcdDigits (a : VByte) : List Byte :=
  [BitVec.ofNat 8 (a.toNat / 100), BitVec.ofNat 8 (a.toNat / 10 % 10), BitVec.ofNat 8 (a.toNat % 10)]

/-- The start column of a sprite, Vx mod 64 (44_display.md R89). -/
def spriteColumn (v : VByte) : Nat := v.toNat % Params.fbWidth

/-- The start row of a sprite, Vy mod 32 (44_display.md R89). -/
def spriteRow (v : VByte) : Nat := v.toNat % Params.fbHeight

/-- The n bytes of a sprite at I; all are read, the clipped rows too (44_display.md R89; notes/assumptions 26). -/
def State.spriteBytes (s : State) (n : Nibble) : List Byte := s.mem.readBytes s.i.toNat n.toNat

/-- How many registers Fx55 and Fx65 copy: V0 to Vx inclusive (43_index_memory.md R86, R87; notes/assumptions 25). -/
def blockLength (x : Nibble) : Nat := x.toNat + 1

/-- The key a key test names, if its register holds a key index (45_timers_keys.md R92; notes/assumptions 28). -/
def keyOperand (v : VByte) : Option KeyIndex := if h : v.toNat < Params.numKeys then some ⟨v.toNat, h⟩ else none

end Sys2Proof.Machine
end

