-- ==== Sys2Proof/Machine/Alu.lean ====
section
/-! DEFINITION. The meanings of spec/42_alu.md: register loads, arithmetic, logic, shifts and the random byte. Arithmetic is unsigned
8-bit and wraps (R69); operands are read before any write (10_state.md R15). -/

namespace Sys2Proof.Machine

/-- 6xkk, R70. -/
def execLdImm (x : Nibble) (kk : Byte) (s : State) : Outcome := .next ((s.setV x (immOperand kk)).advance .single)

/-- 7xkk, R71: no flag. -/
def execAddImm (x : Nibble) (kk : Byte) (s : State) : Outcome := .next ((s.setV x (s.getV x + immOperand kk)).advance .single)

/-- 8xy0, R72. -/
def execLdReg (x y : Nibble) (s : State) : Outcome := .next ((s.setV x (s.getV y)).advance .single)

/-- 8xy1, R73: VF is not reset (notes/assumptions 20). -/
def execOrReg (x y : Nibble) (s : State) : Outcome := .next ((s.setV x (s.getV x ||| s.getV y)).advance .single)

/-- 8xy2, R74: VF is not reset (notes/assumptions 20). -/
def execAndReg (x y : Nibble) (s : State) : Outcome := .next ((s.setV x (s.getV x &&& s.getV y)).advance .single)

/-- 8xy3, R75: VF is not reset (notes/assumptions 20). -/
def execXorReg (x y : Nibble) (s : State) : Outcome := .next ((s.setV x (s.getV x ^^^ s.getV y)).advance .single)

/-- 8xy4, R76. -/
def execAddReg (x y : Nibble) (s : State) : Outcome :=
  .next (s.resultAndFlag x (s.getV x + s.getV y) (carryFlag (s.getV x) (s.getV y)))

/-- 8xy5, R77. -/
def execSubReg (x y : Nibble) (s : State) : Outcome :=
  .next (s.resultAndFlag x (s.getV x - s.getV y) (noBorrowFlag (s.getV x) (s.getV y)))

/-- 8xy6, R78: Vx is shifted and y is ignored (notes/assumptions 21). -/
def execShr (x _y : Nibble) (s : State) : Outcome :=
  .next (s.resultAndFlag x (s.getV x >>> 1) (lowBitFlag (s.getV x)))

/-- 8xy7, R79. -/
def execSubn (x y : Nibble) (s : State) : Outcome :=
  .next (s.resultAndFlag x (s.getV y - s.getV x) (noBorrowFlag (s.getV y) (s.getV x)))

/-- 8xyE, R80: Vx is shifted and y is ignored (notes/assumptions 21). -/
def execShl (x _y : Nibble) (s : State) : Outcome :=
  .next (s.resultAndFlag x (s.getV x <<< 1) (highBitFlag (s.getV x)))

/-- Cxkk, R81: a fresh free byte, masked (notes/assumptions 1). -/
def execRnd (x : Nibble) (kk : Byte) (s : State) : Outcome :=
  .next (((s.setV x (immOperand (s.rndByte &&& kk))).nextDraw).advance .single)

end Sys2Proof.Machine
end

