-- ==== Sys2Proof/Machine/ControlFlow.lean ====
section
/-! DEFINITION. The meanings of spec/41_control_flow.md: jumps, call and return, and the four register skips. -/

namespace Sys2Proof.Machine

/-- 00EE, R62: PC becomes the popped call's address and then advances past it (notes/assumptions 13). -/
def execRet (s : State) : Outcome :=
  if h : 0 < s.sp.val then .next ((s.popToPc h).advance .single) else raise .stackUnderflow s

/-- 1nnn, R60. -/
def execJp (nnn : Addr12) (s : State) : Outcome := .next ((s.setPc (addrOperand nnn)).advance .none)

/-- 2nnn, R61: the call's own address is pushed (notes/assumptions 12, 13). -/
def execCall (nnn : Addr12) (s : State) : Outcome :=
  if h : s.sp.val < Params.stackCapacity then
    .next (((s.push (s.pc.setWidth Params.stackEntryWidth) h).setPc (addrOperand nnn)).advance .none)
  else raise .stackOverflow s

/-- Bnnn, R63. -/
def execJpV0 (nnn : Addr12) (s : State) : Outcome := .next ((s.setPc (offsetTarget (s.getV 0) nnn)).advance .none)

/-- 3xkk, R65. -/
def execSeImm (x : Nibble) (kk : Byte) (s : State) : Outcome := .next (s.advance (skipIf (s.getV x == immOperand kk)))

/-- 4xkk, R66. -/
def execSneImm (x : Nibble) (kk : Byte) (s : State) : Outcome := .next (s.advance (skipIf (s.getV x != immOperand kk)))

/-- 5xy0, R67. -/
def execSeReg (x y : Nibble) (s : State) : Outcome := .next (s.advance (skipIf (s.getV x == s.getV y)))

/-- 9xy0, R68. -/
def execSneReg (x y : Nibble) (s : State) : Outcome := .next (s.advance (skipIf (s.getV x != s.getV y)))

end Sys2Proof.Machine
end

