-- ==== Sys2Proof/Machine/Display.lean ====
section
/-! DEFINITION. The meanings of spec/44_display.md: clear and sprite draw. -/

namespace Sys2Proof.Machine

/-- 00E0, R88: DIRTY is set even on a blank screen. -/
def execCls (s : State) : Outcome := .next ({ s with fb := blankFrame, dirty := true }.advance .single)

/-- The sprite drawn on this state's framebuffer: start position from Vx and Vy as they are before VF is written, collision from
0 (R89; notes/assumptions 26, 27). -/
def State.drawSprite (s : State) (x y n : Nibble) : Canvas :=
  drawRows (spriteColumn (s.getV x)) (spriteRow (s.getV y)) (s.spriteBytes n)
    { fb := s.fb, collision := false, dirty := s.dirty }

/-- Put a drawn canvas back: framebuffer, DIRTY, and VF = collision (R89). -/
def State.putCanvas (s : State) (c : Canvas) : State :=
  { s with fb := c.fb, dirty := c.dirty }.setFlag c.collision

/-- Dxyn, R89: n = 0 reads and draws nothing and clears VF. -/
def execDrw (x y n : Nibble) (s : State) : Outcome :=
  guardAccess s n.toNat ((s.putCanvas (s.drawSprite x y n)).advance .single)

end Sys2Proof.Machine
end

