-- ==== Sys2Proof/Machine/IndexMemory.lean ====
section
/-! DEFINITION. The meanings of spec/43_index_memory.md: the index register, BCD, block store and block load. Every address is
checked before anything is written (20_memory.md R33). -/

namespace Sys2Proof.Machine

/-- Annn, R82. -/
def execLdI (nnn : Addr12) (s : State) : Outcome := .next ((s.setI (addrOperand nnn)).advance .single)

/-- Fx1E, R83: I is not masked; VF is the range overflow of the unbounded sum (notes/assumptions 23). -/
def execAddI (x : Nibble) (s : State) : Outcome :=
  .next (((s.setI (s.i + byteOperand (s.getV x))).setFlag (rangeFlag s.i (s.getV x))).advance .single)

/-- Fx29, R84. -/
def execLdF (x : Nibble) (s : State) : Outcome := .next ((s.setI (glyphAddr (s.getV x))).advance .single)

/-- Fx33, R85. -/
def execLdB (x : Nibble) (s : State) : Outcome :=
  guardAccess s 3 ((s.storeBytes s.i.toNat (bcdDigits (s.getV x))).advance .single)

/-- Fx55, R86: I is unchanged (notes/assumptions 22, 25). -/
def execStoreRegs (x : Nibble) (s : State) : Outcome :=
  guardAccess s (blockLength x) ((s.storeBytes s.i.toNat (s.regsUpTo x)).advance .single)

/-- Fx65, R87: I is unchanged (notes/assumptions 22, 25). -/
def execLoadRegs (x : Nibble) (s : State) : Outcome :=
  guardAccess s (blockLength x) ((s.setRegs (s.mem.readBytes s.i.toNat (blockLength x))).advance .single)

end Sys2Proof.Machine
end

