-- ==== Sys2Proof/Machine/KeysTimers.lean ====
section
/-! DEFINITION. The meanings of spec/45_timers_keys.md: key tests, the key-wait and the timer accesses. -/

namespace Sys2Proof.Machine

/-- A key test: the error for an index above 0xF, else skip when the key's pressedness is `want` (R92, R93). -/
def keyTest (x : Nibble) (want : Bool) (s : State) : Outcome :=
  match keyOperand (s.getV x) with
  | some k => .next (s.advance (skipIf ((s.getKey k).isPressed == want)))
  | none => raise (.keyIndexOutOfRange (s.getV x)) s

/-- Ex9E, R92. -/
def execSkp (x : Nibble) (s : State) : Outcome := keyTest x true s

/-- ExA1, R93. -/
def execSknp (x : Nibble) (s : State) : Outcome := keyTest x false s

/-- Fx07, R95. -/
def execLdVxDt (x : Nibble) (s : State) : Outcome := .next ((s.setV x (s.dt.setWidth Params.vWidth)).advance .single)

/-- Fx0A, R94: Running to WaitingForKey(x); PC stays at this instruction (40_execution_cycle.md R57; notes/assumptions 31). -/
def execLdVxK (x : Nibble) (s : State) : Outcome :=
  .next ({ s with waiting := true, waitReg := x }.advance .none)

/-- Fx15, R96. -/
def execLdDtVx (x : Nibble) (s : State) : Outcome := .next ({ s with dt := (s.getV x).setWidth Params.dtWidth }.advance .single)

/-- Fx18, R97. -/
def execLdStVx (x : Nibble) (s : State) : Outcome := .next ({ s with st := (s.getV x).setWidth Params.stWidth }.advance .single)

end Sys2Proof.Machine
end

