-- ==== Sys2Proof/Machine/Transactions.lean ====
section
/-! DEFINITION. The block's transactions (spec/40_execution_cycle.md R50 Table T): the instruction tick with fetch, decode and the
key-wait poll, the timer tick, key events, frame reset, the display outputs and the ROM load. -/

namespace Sys2Proof.Machine

/-! ## The instruction tick (R52 to R58) -/

/-- Fetch the word at PC, big-endian, or the error when its second byte is not in memory (R53; notes/assumptions 14, 16). -/
def State.fetch (s : State) : Except Error Word :=
  if Params.fetchMax < s.pc.toNat then .error (.fetchOutOfRange s.pc)
  else .ok (wordOfBytes (s.mem.read s.pc.toNat) (s.mem.read (s.pc.toNat + 1)))

/-- Fetch and decode: the instruction at PC, or the first error met, FetchOutOfRange before InvalidOpcode (R53, R54;
60_exceptions.md R102). -/
def State.fetchInstr (s : State) : Except Error Instr :=
  match s.fetch with
  | .error e => .error e
  | .ok w =>
    match decodeWord w with
    | .ok i => .ok i
    | .error _ => .error (.invalidOpcode w)

/-- All logical keys, 0 to F. -/
def allKeys : List KeyIndex := List.finRange Params.numKeys

/-- The keys a key-wait can see a press edge of: those in state Pressed, if KEY_FRAME is set (R58; notes/assumptions 31). -/
def State.pressEdges (s : State) : List KeyIndex :=
  if s.keyFrame then allKeys.filter (fun k => s.getKey k == .pressed) else []

/-- Release the key-wait with key k: write it, return to Running, pass the Fx0A (R58 Table K; notes/assumptions 31). -/
def State.release (s : State) (k : KeyIndex) : State :=
  ({ s with waiting := false }.setV s.waitReg (BitVec.ofNat Params.vWidth k.val)).advance .single

/-- The key-wait poll: release on a press edge, else nothing (R58). -/
def keyWaitPoll (s : State) : State :=
  match s.pressEdges with
  | [] => s
  | k :: ks => (s.release (chooseKey s.draws k ks)).nextDraw

/-- A running tick: fetch, decode, execute (R52). -/
def runInstr (s : State) : Outcome :=
  match s.fetchInstr with
  | .error e => raise e s
  | .ok i => exec i s

/-- A transaction that changes state has no step once an error is latched (60_exceptions.md R100). -/
def unlessFaulted (s : State) (o : Outcome) : Outcome :=
  match s.fault with
  | some e => .fault (.errorLatched e)
  | none => o

/-- TICK_INSTR (R52), with the order of checks of 60_exceptions.md R102. -/
def tickInstr (s : State) : Outcome :=
  unlessFaulted s (if s.waiting then .next (keyWaitPoll s) else runInstr s)

/-! ## Timers, keys, display and load -/

/-- A timer counts down and stays at 0 (60_exceptions.md R106). -/
def countDown {w : Nat} (b : BitVec w) : BitVec w := if b = 0 then 0 else b - 1

/-- The effect of TICK_TIMER (60_exceptions.md R106). -/
def State.countTimers (s : State) : State := { s with dt := countDown s.dt, st := countDown s.st }

/-- The effect of KEY_EVENT(k, p) (60_exceptions.md R108). -/
def State.moveKey (s : State) (k : KeyIndex) (p : KeyMove) : State :=
  { s.setKey k ((s.getKey k).after p) with keyFrame := s.keyFrame || isPressEdge (s.getKey k) p }

/-- The effect of FRAME_RESET (60_exceptions.md R110). -/
def State.clearKeyFrame (s : State) : State := { s with keyFrame := false }

/-- The effect of DIRTY_QUERY (44_display.md R91). -/
def State.clearDirty (s : State) : State := { s with dirty := false }

/-- LOAD: the ROM's bytes at 0x200 onward; a ROM that does not fit is refused (20_memory.md R30; notes/assumptions 10). -/
def loadRom (rom : List Byte) (s : State) : Outcome :=
  if romFits rom then .next (s.storeBytes Params.programBase rom) else .refused (.romTooLarge rom.length)

/-- The tone output: ST is not 0 (60_exceptions.md R107). -/
def State.tone (s : State) : Bool := s.st != 0

/-- One transaction of Table T (R50). FB_READ and TIMER_READ change nothing and remain after an error (60_exceptions.md R100). -/
def transact : Transaction → State → Outcome
  | .load rom, s => unlessFaulted s (loadRom rom s)
  | .tickInstr, s => tickInstr s
  | .tickTimer, s => unlessFaulted s (.next s.countTimers)
  | .keyEvent k p, s => unlessFaulted s (.next (s.moveKey k p))
  | .frameReset, s => unlessFaulted s (.next s.clearKeyFrame)
  | .fbRead, s => .next s
  | .dirtyQuery, s => unlessFaulted s (.next s.clearDirty)
  | .timerRead, s => .next s

/-- What a transaction returns to the host (R50 Table T, column outputs; notes/assumptions 33). -/
inductive Reply where
  /-- No output. -/
  | silent
  /-- The tick's result Ok. -/
  | ok
  /-- The tick's result Err(e). -/
  | err (e : Error)
  /-- The framebuffer. -/
  | pixels (fb : FrameBuffer)
  /-- DIRTY before the query. -/
  | wasUpdated (dirty : Bool)
  /-- DT, ST and the tone. -/
  | timers (dt : BitVec Params.dtWidth) (st : BitVec Params.stWidth) (tone : Bool)
  deriving DecidableEq, Repr

/-- The result of an instruction tick: Err(e) when it latched e (60_exceptions.md R100), Ok otherwise (R52). -/
def tickResult (s : State) : Reply :=
  match tickInstr s with
  | .next t => match t.fault with
    | some e => .err e
    | none => .ok
  | _ => .silent

/-- The output of a transaction issued in state s. -/
def reply : Transaction → State → Reply
  | .load _, _ => .silent
  | .tickInstr, s => tickResult s
  | .tickTimer, _ => .silent
  | .keyEvent _ _, _ => .silent
  | .frameReset, _ => .silent
  | .fbRead, s => .pixels s.fb
  | .dirtyQuery, s => if s.fault.isNone then .wasUpdated s.dirty else .silent
  | .timerRead, s => .timers s.dt s.st s.tone

/-- The transaction the host issues next: the head of the schedule, or TICK_INSTR when none is listed (R51; notes/assumptions 4). -/
def nextTransaction (s : State) : Transaction × State :=
  match s.schedule with
  | [] => (.tickInstr, s)
  | t :: rest => (t, { s with schedule := rest })

/-- One step: the host's next transaction (R51). -/
def runTransaction (s : State) : Outcome := transact (nextTransaction s).1 (nextTransaction s).2

/-- The state in which the next step is a running tick at a fetchable PC: nothing scheduled before it, no error latched, no
key-wait. From `State.reset` it changes nothing (notes/assumptions 11). -/
def State.readyToFetch (s : State) : State :=
  { s with
    pc := if s.pc.toNat ≤ Params.fetchMax then s.pc else Params.pcReset
    waiting := false
    fault := none
    schedule := [] }

/-- The state with a word stored, high byte first, where the next step fetches. -/
def State.placeWord (s : State) (w : Word) : State :=
  let r := s.readyToFetch
  r.storeBytes r.pc.toNat (bytesOfWord w)

end Sys2Proof.Machine
end

