-- ==== Sys2Proof/Machine/Step.lean ====
section
/-! DEFINITION. One step of the machine is one transaction of the host (spec/40_execution_cycle.md R51): the head of the schedule
field, or an instruction tick. -/

namespace Sys2Proof.Machine

/-- One step. -/
def step (s : State) : Host.Outcome State Fault Refusal := runTransaction s

/-- The state with a table row's instruction stored where `step` fetches its next instruction; it stands for the LOAD of a program
whose first word it is (notes/assumptions 11). -/
def State.withFetchWord (s : State) (nbits w : Nat) : State := s.placeWord (tableWord nbits w)

end Sys2Proof.Machine
end

