-- ==== Sys2Proof/Safety.lean ====
section
/-! DEFINITION. The terms claims about the machine use: what a transition leaves unchanged, the invariants, a halted state, an
admissible schedule, the pixels a sprite covers, and states that differ only where no instruction looks. -/

namespace Sys2Proof.Machine

/-! ## Frames -/

/-- The parts of the state other than the general registers (10_state.md R11, and the model's own two). -/
inductive Part where
  | index
  | pc
  | callStack
  | memory
  | pixels
  | dirty
  | delay
  | sound
  | keyWait
  | keys
  | keyFrame
  | fault
  | draws
  | schedule
  deriving DecidableEq, Repr

/-- The part is the same in both states; memory byte by byte. -/
def Part.same (p : Part) (s t : State) : Prop :=
  match p with
  | .index => t.i = s.i
  | .pc => t.pc = s.pc
  | .callStack => t.sp = s.sp ∧ t.stack = s.stack
  | .memory => ∀ a, t.readMem a = s.readMem a
  | .pixels => t.fb = s.fb
  | .dirty => t.dirty = s.dirty
  | .delay => t.dt = s.dt
  | .sound => t.st = s.st
  | .keyWait => t.waiting = s.waiting ∧ t.waitReg = s.waitReg
  | .keys => t.keys = s.keys
  | .keyFrame => t.keyFrame = s.keyFrame
  | .fault => t.fault = s.fault
  | .draws => t.draws = s.draws
  | .schedule => t.schedule = s.schedule

/-- Every part is the same but, perhaps, those listed. -/
def unchangedBut (parts : List Part) (s t : State) : Prop := ∀ p, p ∉ parts → p.same s t

/-- Every general register is the same but, perhaps, those listed. -/
def registersKeptBut (xs : List Nibble) (s t : State) : Prop := ∀ y, y ∉ xs → t.getV y = s.getV y

/-- Every byte of memory outside the `n` bytes from `base` is the same. -/
def memoryKeptOutside (base n : Nat) (s t : State) : Prop :=
  ∀ a, ¬ (base ≤ a ∧ a < base + n) → t.readMem a = s.readMem a

/-- The parts of the state that a transaction other than an instruction tick may write (40_execution_cycle.md R50 Table T). An
instruction tick writes what its instruction does. -/
def Transaction.writes : Transaction → List Part
  | .load _ => [.memory]
  | .tickInstr => []
  | .tickTimer => [.delay, .sound]
  | .keyEvent _ _ => [.keys, .keyFrame]
  | .frameReset => [.keyFrame]
  | .fbRead => []
  | .dirtyQuery => [.dirty]
  | .timerRead => []

/-! ## Stores -/

/-- The bytes Fx55 stores: V0 to Vx (43_index_memory.md R86). -/
def State.registerBlock (s : State) (x : Nibble) : List Byte :=
  (List.range (x.toNat + 1)).map (fun k => (s.getV (BitVec.ofNat 4 k)).setWidth 8)

/-- The bytes Fx33 stores: hundreds, tens, ones (43_index_memory.md R85). -/
def decimalBlock (v : VByte) : List Byte :=
  [v.toNat / 100, v.toNat / 10 % 10, v.toNat % 10].map (BitVec.ofNat 8)

/-- The byte at an address once a block is stored at I: the block's where it covers the address, else the byte there before
(20_memory.md R33). -/
def byteAfterStore (s : State) (bs : List Byte) (a : Nat) : Byte :=
  if s.i.toNat ≤ a ∧ a < s.i.toNat + bs.length then bs.getD (a - s.i.toNat) 0 else s.readMem a

/-! ## The default font -/

/-- Table F: the five bytes of each digit's glyph, as 20_memory.md R28 lists them (notes/assumptions 6). -/
def tableF (d : Nibble) : List Byte :=
  match d.toNat with
  | 0x0 => [0xF0, 0x90, 0x90, 0x90, 0xF0]
  | 0x1 => [0x20, 0x60, 0x20, 0x20, 0x70]
  | 0x2 => [0xF0, 0x10, 0xF0, 0x80, 0xF0]
  | 0x3 => [0xF0, 0x10, 0xF0, 0x10, 0xF0]
  | 0x4 => [0x90, 0x90, 0xF0, 0x10, 0x10]
  | 0x5 => [0xF0, 0x80, 0xF0, 0x10, 0xF0]
  | 0x6 => [0xF0, 0x80, 0xF0, 0x90, 0xF0]
  | 0x7 => [0xF0, 0x10, 0x20, 0x40, 0x40]
  | 0x8 => [0xF0, 0x90, 0xF0, 0x90, 0xF0]
  | 0x9 => [0xF0, 0x90, 0xF0, 0x10, 0xF0]
  | 0xA => [0xF0, 0x90, 0xF0, 0x90, 0x90]
  | 0xB => [0xE0, 0x90, 0xE0, 0x90, 0xE0]
  | 0xC => [0xF0, 0x80, 0x80, 0x80, 0xF0]
  | 0xD => [0xE0, 0x90, 0x90, 0x90, 0xE0]
  | 0xE => [0xF0, 0x80, 0xF0, 0x80, 0xF0]
  | _ => [0xF0, 0x80, 0xF0, 0x80, 0x80]

/-! ## Running and halted states -/

/-- An instruction tick fetches: no error is latched and no key-wait (40_execution_cycle.md R52). -/
def State.running (s : State) : Prop := s.fault = none ∧ s.waiting = false

/-- The end of a run that the spec defines: not faulted, not waiting, and the word at PC a jump to PC (40_execution_cycle.md R59;
notes/assumptions 39). -/
def State.halted (s : State) : Prop :=
  s.fault = none ∧ s.waiting = false ∧ s.pc.toNat ≤ Params.fetchMax ∧
    ∃ nnn : Addr12, nnn.toNat = s.pc.toNat ∧
      wordOfBytes (s.readMem s.pc.toNat) (s.readMem (s.pc.toNat + 1)) = wordNNN 0x1 nnn

/-! ## Schedules -/

/-- LOAD of a fitting ROM may stand only first, once (40_execution_cycle.md R51, 20_memory.md R30). -/
def scheduleAdmissible : List Transaction → Bool
  | .load rom :: rest => romFits rom && rest.all (fun t => !isLoad t)
  | ts => ts.all (fun t => !isLoad t)
where
  /-- The transaction is a LOAD. -/
  isLoad : Transaction → Bool
    | .load _ => true
    | _ => false

/-- The source's conventional frame: FRAME_RESET, the key events, n instruction ticks, one timer tick, then the display's reads
(40_execution_cycle.md R51; INSTR_PER_FRAME is the argument n, 70_reset_and_hazards.md R119). -/
def conventionalFrame (events : List (KeyIndex × KeyMove)) (n : Nat) : List Transaction :=
  .frameReset :: events.map (fun e => .keyEvent e.1 e.2) ++ List.replicate n .tickInstr ++ [.tickTimer, .fbRead, .dirtyQuery]

/-! ## Invariants -/

/-- PC never passes 0x10FE; it is fetchable during a key-wait; every return address held is a fetchable one
(10_state.md R17; 41_control_flow.md R61, R62). -/
def State.pcBounded (s : State) : Prop :=
  s.pc.toNat ≤ Params.pcHighest ∧ (s.waiting = true → s.pc.toNat ≤ Params.fetchMax) ∧
    ∀ j, (h : j < Params.stackCapacity) → j < s.sp.val → (s.stack[j]'h).toNat ≤ Params.fetchMax

/-! ## Sprites -/

/-- A bit of the sprite at I that is 1 falls on the pixel (44_display.md R89, R90): the start position is Vx mod 64, Vy mod 32,
bit 7 of a row is leftmost, rows go down, and nothing wraps. -/
def spriteCovers (s : State) (x y n : Nibble) (px py : Nat) : Bool :=
  let xp := (s.getV x).toNat % Params.fbWidth
  let yp := (s.getV y).toNat % Params.fbHeight
  decide (xp ≤ px ∧ px < xp + 8 ∧ yp ≤ py ∧ py < yp + n.toNat) &&
    (s.readMem (s.i.toNat + (py - yp))).getLsbD (7 - (px - xp))

/-! ## Indistinguishable states -/

/-- The two states differ at most in stack entries at or above SP (10_state.md R19). -/
def sameButStaleStack (s t : State) : Prop :=
  t = { s with stack := t.stack } ∧ ∀ j, (h : j < Params.stackCapacity) → j < s.sp.val → t.stack[j]'h = s.stack[j]'h

/-- The two answers are alike: both next with related states, or the same stop. -/
def alike (R : State → State → Prop) : Outcome → Outcome → Prop
  | .next s, .next t => R s t
  | .fault e, .fault e' => e = e'
  | .refused r, .refused r' => r = r'
  | _, _ => False

/-- The two states differ at most in the outputs no instruction reads: DIRTY and ST (10_state.md R20, R23). -/
def sameButOutputs (s t : State) : Prop := t = { s with dirty := t.dirty, st := t.st }

end Sys2Proof.Machine
end

