-- ==== Sys2Proof/Certificates/Slice0/Obligations.lean ====
section
/-! DEFINITION. The statements about the machine that the provers settle. Each docstring names the rules of spec/ it formalises, or
the spec's decision and the log entry it rests on. -/

section
open Sys2Proof Sys2Proof.Machine

/-! ## Encoding -/

/-- Decoding the bytes of an instruction, whatever follows them, gives the instruction and what follows (spec/30_encoding.md
sections 1 to 3). No term of `Instr` is ill formed, so there is no hypothesis. -/
def Obligations.DecodeOfEncodeIsIdentity : Prop :=
  ∀ (i : Instr) (rest : List Byte), decode (encode i ++ rest) = .ok (i, rest)

/-- Encoding the instruction a word decodes to gives the word back: no valid word has a second reading (spec/30_encoding.md R46). -/
def Obligations.EncodeOfDecodeIsIdentity : Prop :=
  ∀ (w : Word) (i : Instr), decodeWord w = .ok i → encodeWord i = w

/-- The decoder, which dispatches by nibbles, agrees with the masks of Table O on every word: one row matches and its mnemonic is the
decoded instruction's, or no row matches and the word is InvalidOpcode. Rests on the spec's decisions D4 and D5 (notes/assumptions 19). -/
def Obligations.DecodeFollowsOpcodeMap : Prop :=
  ∀ w : Word,
    (∃ i r, decodeWord w = .ok i ∧ matchingRows w = [r] ∧ r.mnemonic = i.mnemonic) ∨
      (matchingRows w = [] ∧ decodeWord w = .error (.invalidOpcode w))

/-- A few words of the spec's decode vectors and examples decode as the spec says (spec/95_test_vectors.md section 2.1). That 0x01E0
and 0xF075 are invalid rests on the spec's decisions D4 and D5 (notes/assumptions 19). -/
def Obligations.SampleWordsDecode : Prop :=
  decodeWord 0x00E0 = .ok .cls ∧ decodeWord 0x00EE = .ok .ret ∧ decodeWord 0x1ABC = .ok (.jp 0xABC) ∧
  decodeWord 0x3342 = .ok (.seImm 3 0x42) ∧ decodeWord 0x800E = .ok (.shl 0 0) ∧ decodeWord 0x8F15 = .ok (.subReg 0xF 1) ∧
  decodeWord 0xA2F0 = .ok (.ldI 0x2F0) ∧ decodeWord 0xD125 = .ok (.drw 1 2 5) ∧ decodeWord 0xE1A1 = .ok (.sknp 1) ∧
  decodeWord 0xFF65 = .ok (.loadRegs 0xF) ∧ decodeWord 0x01E0 = .error (.invalidOpcode 0x01E0) ∧
  decodeWord 0x5121 = .error (.invalidOpcode 0x5121) ∧ decodeWord 0xF075 = .error (.invalidOpcode 0xF075)

/-! ## The tick -/

/-- A step performs the host's next transaction: the head of the schedule, whatever it is, taken off the list, or TICK_INSTR when the
list is empty. So in a state with no error and no key-wait, when the two bytes at PC decode to i, a step is `exec i` on the state
(spec/40_execution_cycle.md sections 1, 2). That the schedule is a list in the state, taken from its head, and that an empty one means
TICK_INSTR, is the model's choice (notes/assumptions 4). -/
def Obligations.StepRunsDecodedInstruction : Prop :=
  ∀ s : State,
    (s.schedule = [] → step s = transact .tickInstr s) ∧
    (∀ r rest, s.schedule = r :: rest → step s = transact r { s with schedule := rest }) ∧
    (∀ (i : Instr) (rest : List Transaction), s.fault = none → s.waiting = false → s.pc.toNat ≤ 0xFFE →
      decode [s.readMem s.pc.toNat, s.readMem (s.pc.toNat + 1)] = .ok (i, []) →
      transact .tickInstr s = exec i s ∧
      (s.schedule = [] → step s = exec i s) ∧
      (s.schedule = .tickInstr :: rest → step s = exec i { s with schedule := rest }))

/-- Fetch is big-endian, from any PC up to 0xFFE, even or odd; above it fetch fails with the PC. Rests on the spec's decisions D6 and
D8 (notes/assumptions 14, 16). -/
def Obligations.FetchIsBigEndianAndBounded : Prop :=
  ∀ s : State,
    (s.pc.toNat ≤ 0xFFE → ∃ w, s.fetch = .ok w ∧
      w.extractLsb' 8 8 = s.readMem s.pc.toNat ∧ w.extractLsb' 0 8 = s.readMem (s.pc.toNat + 1)) ∧
    (0xFFE < s.pc.toNat → s.fetch = .error (.fetchOutOfRange s.pc))

/-- A running instruction tick, listed or not, that cannot fetch, or fetches a word no row of Table O matches, writes FAULT and nothing
else. Rests on the spec's decisions D6 and D9 (notes/assumptions 5, 14). -/
def Obligations.FetchAndDecodeErrorsLatch : Prop :=
  ∀ s : State, s.running →
    (0xFFE < s.pc.toNat → transact .tickInstr s = .next { s with fault := some (.fetchOutOfRange s.pc) }) ∧
    (∀ w : Word, s.pc.toNat ≤ 0xFFE → w = wordOfBytes (s.readMem s.pc.toNat) (s.readMem (s.pc.toNat + 1)) →
      matchingRows w = [] → transact .tickInstr s = .next { s with fault := some (.invalidOpcode w) })

/-- What an instruction tick returns, in a state with no error: Ok for a key-wait poll; Err with the error for a tick that cannot fetch
or fetches an invalid word; for a tick that runs an instruction, Err(e) when the instruction latches e and Ok when it latches none
(spec/40_execution_cycle.md Table T; spec/60_exceptions.md section 2). That an error is the state's FAULT, and that the result is a
function of the state, rest on the spec's decisions D6 and D9 and on the model's choice (notes/assumptions 5, 14, 33). -/
def Obligations.TickResultReportsTheError : Prop :=
  ∀ s : State, s.fault = none →
    (s.waiting = true → reply .tickInstr s = .ok) ∧
    (s.waiting = false → 0xFFE < s.pc.toNat → reply .tickInstr s = .err (.fetchOutOfRange s.pc)) ∧
    (∀ w : Word, s.waiting = false → s.pc.toNat ≤ 0xFFE →
      w = wordOfBytes (s.readMem s.pc.toNat) (s.readMem (s.pc.toNat + 1)) →
      (matchingRows w = [] → reply .tickInstr s = .err (.invalidOpcode w)) ∧
      (∀ i t, decodeWord w = .ok i → exec i s = .next t →
        (t.fault = none → reply .tickInstr s = .ok) ∧ (∀ e, t.fault = some e → reply .tickInstr s = .err e)))

/-- Once an error is latched no step changes the machine. The host's reads of the framebuffer and the timers still answer, with their
value, and every other step, whether a listed transaction or the tick of an empty schedule, stops with that error. Rests on the
spec's decision D9 (notes/assumptions 5). That a step takes the head of a list in the state, and that an empty one means TICK_INSTR,
is the model's choice (notes/assumptions 4). -/
def Obligations.FaultedStateIsTerminal : Prop :=
  ∀ (s : State) (e : Error), s.fault = some e →
    reply .fbRead s = .pixels s.fb ∧ transact .fbRead s = .next s ∧
    reply .timerRead s = .timers s.dt s.st (decide (s.st ≠ 0)) ∧ transact .timerRead s = .next s ∧
    (∀ rest, s.schedule = .fbRead :: rest ∨ s.schedule = .timerRead :: rest → step s = .next { s with schedule := rest }) ∧
    (∀ r, r ≠ .fbRead → r ≠ .timerRead → transact r s = .fault (.errorLatched e)) ∧
    ((∀ rest, s.schedule ≠ .fbRead :: rest ∧ s.schedule ≠ .timerRead :: rest) → step s = .fault (.errorLatched e))

/-- An error is precise: an instruction that changes FAULT changes nothing else. Rests on the spec's decision D9 (notes/assumptions
5, 15). -/
def Obligations.ErrorsArePrecise : Prop :=
  ∀ (i : Instr) (s t : State), exec i s = .next t → t.fault ≠ s.fault → ∃ e, t = { s with fault := some e }

/-- The key-wait poll of an instruction tick, listed or not: with no press edge visible nothing changes; with one, some key in state Pressed is written to the waiting
register, the machine runs again and PC passes the Fx0A. Rests on the spec's decisions D21 to D23 (notes/assumptions 2, 30, 31); the
draw counter is the model's own (notes/assumptions 3). -/
def Obligations.KeyWaitPollReleasesOnPressEdge : Prop :=
  ∀ s : State, s.fault = none → s.waiting = true →
    ((s.keyFrame = false ∨ ∀ k, s.getKey k ≠ .pressed) → transact .tickInstr s = .next s) ∧
    (s.keyFrame = true → (∃ k, s.getKey k = .pressed) →
      ∃ t k, transact .tickInstr s = .next t ∧ s.getKey k = .pressed ∧ (t.getV s.waitReg).toNat = k.val ∧ t.waiting = false ∧
        t.waitReg = s.waitReg ∧ t.pc = s.pc + 2 ∧ registersKeptBut [s.waitReg] s t ∧ unchangedBut [.pc, .keyWait, .draws] s t)

/-- No instruction stops the machine, and none writes the key latch, the frame flag or the host's schedule (spec/10_state.md section 7).
The next state may be a latched error for 00EE, 2nnn, Dxyn, Ex9E, ExA1, Fx33, Fx55 and Fx65, and an error is a next state only by the
spec's decision D9 (notes/assumptions 5): this is where those eight go on, and their own statements say where they complete. That an
instruction answers in a faulted or waiting state too, and that there is a schedule, are the model's choices (notes/assumptions 37, 4). -/
def Obligations.EveryInstructionCompletes : Prop :=
  ∀ (i : Instr) (s : State),
    ∃ t, exec i s = .next t ∧ t.keys = s.keys ∧ t.keyFrame = s.keyFrame ∧ t.schedule = s.schedule

/-- Each special register, the call stack, memory, the display, the timers, the key-wait and VF are written by the instructions the
spec names for them and by no other (spec/10_state.md sections 2 to 6); the model's own draw counter by Cxkk alone (notes/assumptions
3). That the logic operations leave VF rests on the spec's decision D10 (notes/assumptions 20), that Fx55 and Fx65 leave I on D12
(notes/assumptions 22). -/
def Obligations.OnlyNamedInstructionsWriteSpecialState : Prop :=
  ∀ (i : Instr) (s t : State), exec i s = .next t →
    (t.i ≠ s.i → (∃ a, i = .ldI a) ∨ (∃ x, i = .addI x) ∨ (∃ x, i = .ldF x)) ∧
    (t.sp ≠ s.sp ∨ t.stack ≠ s.stack → (∃ a, i = .call a) ∨ i = .ret) ∧
    (t.mem ≠ s.mem → (∃ x, i = .ldB x) ∨ (∃ x, i = .storeRegs x)) ∧
    (t.fb ≠ s.fb ∨ t.dirty ≠ s.dirty → i = .cls ∨ (∃ x y n, i = .drw x y n)) ∧
    (t.dt ≠ s.dt → ∃ x, i = .ldDtVx x) ∧
    (t.st ≠ s.st → ∃ x, i = .ldStVx x) ∧
    (t.waiting ≠ s.waiting ∨ t.waitReg ≠ s.waitReg → ∃ x, i = .ldVxK x) ∧
    (t.draws ≠ s.draws → ∃ x kk, i = .rnd x kk) ∧
    (t.getV 0xF ≠ s.getV 0xF →
      (∃ x y, i = .addReg x y ∨ i = .subReg x y ∨ i = .shr x y ∨ i = .subn x y ∨ i = .shl x y) ∨
      (∃ x y n, i = .drw x y n) ∨ (∃ x, i = .addI x) ∨
      (∃ y, i = .ldReg 0xF y ∨ i = .orReg 0xF y ∨ i = .andReg 0xF y ∨ i = .xorReg 0xF y) ∨
      (∃ kk, i = .ldImm 0xF kk ∨ i = .addImm 0xF kk ∨ i = .rnd 0xF kk) ∨ i = .ldVxDt 0xF ∨ i = .loadRegs 0xF)

/-! ## Control transfer -/

/-- 1nnn: PC becomes nnn, nothing else changes, and a target of 0xFFF makes the next fetch fail, which rests on the spec's decision D6
(notes/assumptions 14). -/
def Obligations.JpSetsPc : Prop :=
  ∀ (s : State) (nnn : Addr12),
    decodeWord (wordNNN 0x1 nnn) = .ok (.jp nnn) ∧
    ∃ t, exec (.jp nnn) s = .next t ∧ t.pc.toNat = nnn.toNat ∧ registersKeptBut [] s t ∧ unchangedBut [.pc] s t ∧
      (nnn = 0xFFF → t.fetch = .error (.fetchOutOfRange 0xFFF))

/-- 2nnn: with fewer than 16 return addresses held, its own address is pushed, the rest of the stack stays and PC becomes nnn; with 16
held it is StackOverflow and nothing else. Rests on the spec's decisions D2, D3 and D9 (notes/assumptions 5, 12, 13). -/
def Obligations.CallPushesOwnAddressOrOverflows : Prop :=
  ∀ (s : State) (nnn : Addr12),
    decodeWord (wordNNN 0x2 nnn) = .ok (.call nnn) ∧
    (∀ h : s.sp.val < 16, ∃ t, exec (.call nnn) s = .next t ∧ t.sp.val = s.sp.val + 1 ∧ t.stack[s.sp.val] = s.pc ∧
      (∀ j, (hj : j < 16) → j ≠ s.sp.val → t.stack[j] = s.stack[j]) ∧
      t.pc.toNat = nnn.toNat ∧ registersKeptBut [] s t ∧ unchangedBut [.pc, .callStack] s t) ∧
    (s.sp.val = 16 → exec (.call nnn) s = .next { s with fault := some .stackOverflow })

/-- 00EE: with a return address held, PC becomes it plus 2, the depth falls by one and the entries stay; with none held it is
StackUnderflow and nothing else. Rests on the spec's decisions D3 and D9 (notes/assumptions 5, 13). -/
def Obligations.RetPopsOrUnderflows : Prop :=
  ∀ s : State,
    (∀ h : 0 < s.sp.val, ∃ t, exec .ret s = .next t ∧ t.sp.val = s.sp.val - 1 ∧
      t.pc = s.stack[s.sp.val - 1]'(isHeld h) + 2 ∧ t.stack = s.stack ∧
      registersKeptBut [] s t ∧ unchangedBut [.pc, .callStack] s t) ∧
    (s.sp.val = 0 → exec .ret s = .next { s with fault := some .stackUnderflow })

/-- A return right after a call resumes behind the call, with the depth as before. Rests on the spec's decision D3 (notes/assumptions 13). -/
def Obligations.ReturnResumesBehindCall : Prop :=
  ∀ (s : State) (nnn : Addr12), s.sp.val < 16 →
    ∃ t u, exec (.call nnn) s = .next t ∧ exec .ret t = .next u ∧ u.pc = s.pc + 2 ∧ u.sp = s.sp ∧
      registersKeptBut [] s u ∧ unchangedBut [.pc, .callStack] s u

/-- Bnnn: PC becomes V0 + nnn, not wrapped to 12 bits. Rests on the spec's decision D6 (notes/assumptions 14). -/
def Obligations.JpV0AddsWithoutWrap : Prop :=
  ∀ (s : State) (nnn : Addr12),
    decodeWord (wordNNN 0xB nnn) = .ok (.jpV0 nnn) ∧
    ∃ t, exec (.jpV0 nnn) s = .next t ∧ t.pc.toNat = (s.getV 0).toNat + nnn.toNat ∧
      registersKeptBut [] s t ∧ unchangedBut [.pc] s t

/-- 3xkk (R65): skip if Vx = kk. -/
def Obligations.SeImmSkipsIfEqual : Prop :=
  ∀ (s : State) (x : Nibble) (kk : Byte),
    decodeWord (wordXKK 0x3 x kk) = .ok (.seImm x kk) ∧
    ∃ t, exec (.seImm x kk) s = .next t ∧ t.pc = (if s.getV x = kk then s.pc + 4 else s.pc + 2) ∧
      registersKeptBut [] s t ∧ unchangedBut [.pc] s t

/-- 4xkk (R66): skip if Vx differs from kk. -/
def Obligations.SneImmSkipsIfDifferent : Prop :=
  ∀ (s : State) (x : Nibble) (kk : Byte),
    decodeWord (wordXKK 0x4 x kk) = .ok (.sneImm x kk) ∧
    ∃ t, exec (.sneImm x kk) s = .next t ∧ t.pc = (if s.getV x = kk then s.pc + 2 else s.pc + 4) ∧
      registersKeptBut [] s t ∧ unchangedBut [.pc] s t

/-- 5xy0 (R67): skip if Vx = Vy; a low nibble other than 0 is InvalidOpcode at decode. -/
def Obligations.SeRegSkipsIfEqual : Prop :=
  ∀ (s : State) (x y : Nibble),
    decodeWord (wordXYN 0x5 x y 0) = .ok (.seReg x y) ∧
    (∀ n : Nibble, n ≠ 0 → decodeWord (wordXYN 0x5 x y n) = .error (.invalidOpcode (wordXYN 0x5 x y n))) ∧
    ∃ t, exec (.seReg x y) s = .next t ∧ t.pc = (if s.getV x = s.getV y then s.pc + 4 else s.pc + 2) ∧
      registersKeptBut [] s t ∧ unchangedBut [.pc] s t

/-- 9xy0 (R68): skip if Vx differs from Vy; a low nibble other than 0 is InvalidOpcode at decode. -/
def Obligations.SneRegSkipsIfDifferent : Prop :=
  ∀ (s : State) (x y : Nibble),
    decodeWord (wordXYN 0x9 x y 0) = .ok (.sneReg x y) ∧
    (∀ n : Nibble, n ≠ 0 → decodeWord (wordXYN 0x9 x y n) = .error (.invalidOpcode (wordXYN 0x9 x y n))) ∧
    ∃ t, exec (.sneReg x y) s = .next t ∧ t.pc = (if s.getV x = s.getV y then s.pc + 2 else s.pc + 4) ∧
      registersKeptBut [] s t ∧ unchangedBut [.pc] s t

/-! ## Loads, arithmetic and logic -/

/-- 6xkk (R70): Vx becomes kk. -/
def Obligations.LdImmLoadsByte : Prop :=
  ∀ (s : State) (x : Nibble) (kk : Byte),
    decodeWord (wordXKK 0x6 x kk) = .ok (.ldImm x kk) ∧
    ∃ t, exec (.ldImm x kk) s = .next t ∧ t.getV x = kk ∧ registersKeptBut [x] s t ∧ t.pc = s.pc + 2 ∧
      unchangedBut [.pc] s t

/-- 7xkk (R71): Vx becomes Vx + kk modulo 256, with no flag. -/
def Obligations.AddImmWrapsWithoutFlag : Prop :=
  ∀ (s : State) (x : Nibble) (kk : Byte),
    decodeWord (wordXKK 0x7 x kk) = .ok (.addImm x kk) ∧
    ∃ t, exec (.addImm x kk) s = .next t ∧ (t.getV x).toNat = ((s.getV x).toNat + kk.toNat) % 256 ∧
      registersKeptBut [x] s t ∧ t.pc = s.pc + 2 ∧ unchangedBut [.pc] s t

/-- 8xy0 (R72): Vx becomes Vy. -/
def Obligations.LdRegCopies : Prop :=
  ∀ (s : State) (x y : Nibble),
    decodeWord (wordXYN 0x8 x y 0x0) = .ok (.ldReg x y) ∧
    ∃ t, exec (.ldReg x y) s = .next t ∧ t.getV x = s.getV y ∧ registersKeptBut [x] s t ∧ t.pc = s.pc + 2 ∧
      unchangedBut [.pc] s t

/-- 8xy1, 8xy2, 8xy3: bitwise OR, AND and XOR, bit by bit, and VF is not reset. Rests on the spec's decision D10 (notes/assumptions 20). -/
def Obligations.LogicIsBitwiseWithoutFlag : Prop :=
  ∀ (s : State) (x y : Nibble),
    decodeWord (wordXYN 0x8 x y 0x1) = .ok (.orReg x y) ∧ decodeWord (wordXYN 0x8 x y 0x2) = .ok (.andReg x y) ∧
    decodeWord (wordXYN 0x8 x y 0x3) = .ok (.xorReg x y) ∧
    ∃ t u v, exec (.orReg x y) s = .next t ∧ exec (.andReg x y) s = .next u ∧ exec (.xorReg x y) s = .next v ∧
      (∀ b, b < 8 →
        (t.getV x).getLsbD b = ((s.getV x).getLsbD b || (s.getV y).getLsbD b) ∧
        (u.getV x).getLsbD b = ((s.getV x).getLsbD b && (s.getV y).getLsbD b) ∧
        (v.getV x).getLsbD b = ((s.getV x).getLsbD b != (s.getV y).getLsbD b)) ∧
      (∀ r ∈ [t, u, v], registersKeptBut [x] s r ∧ r.pc = s.pc + 2 ∧ unchangedBut [.pc] s r)

/-- 8xy4 (R76): VF becomes the carry of the 9-bit sum, also when VF is the destination; any other Vx becomes the sum modulo 256. -/
def Obligations.AddRegCarriesIntoVf : Prop :=
  ∀ (s : State) (x y : Nibble),
    decodeWord (wordXYN 0x8 x y 0x4) = .ok (.addReg x y) ∧
    ∃ t, exec (.addReg x y) s = .next t ∧
      t.getV 0xF = (if (s.getV x).toNat + (s.getV y).toNat > 0xFF then 1 else 0) ∧
      (x ≠ 0xF → (t.getV x).toNat = ((s.getV x).toNat + (s.getV y).toNat) % 256) ∧
      registersKeptBut [x, 0xF] s t ∧ t.pc = s.pc + 2 ∧ unchangedBut [.pc] s t

/-- 8xy5 (R77): VF becomes 1 if Vx >= Vy, else 0, also when VF is the destination; any other Vx becomes Vx - Vy modulo 256. -/
def Obligations.SubRegSetsVfOnNoBorrow : Prop :=
  ∀ (s : State) (x y : Nibble),
    decodeWord (wordXYN 0x8 x y 0x5) = .ok (.subReg x y) ∧
    ∃ t, exec (.subReg x y) s = .next t ∧
      t.getV 0xF = (if (s.getV x).toNat ≥ (s.getV y).toNat then 1 else 0) ∧
      (x ≠ 0xF → ((t.getV x).toNat : Int) = ((s.getV x).toNat - (s.getV y).toNat : Int) % 256) ∧
      registersKeptBut [x, 0xF] s t ∧ t.pc = s.pc + 2 ∧ unchangedBut [.pc] s t

/-- 8xy7 (R79): VF becomes 1 if Vy >= Vx, else 0, also when VF is the destination; any other Vx becomes Vy - Vx modulo 256. -/
def Obligations.SubnSetsVfOnNoBorrow : Prop :=
  ∀ (s : State) (x y : Nibble),
    decodeWord (wordXYN 0x8 x y 0x7) = .ok (.subn x y) ∧
    ∃ t, exec (.subn x y) s = .next t ∧
      t.getV 0xF = (if (s.getV y).toNat ≥ (s.getV x).toNat then 1 else 0) ∧
      (x ≠ 0xF → ((t.getV x).toNat : Int) = ((s.getV y).toNat - (s.getV x).toNat : Int) % 256) ∧
      registersKeptBut [x, 0xF] s t ∧ t.pc = s.pc + 2 ∧ unchangedBut [.pc] s t

/-- 8xy6 and 8xyE: Vx, whatever y names, is shifted by one and VF becomes the bit shifted out, also when VF is the destination. Rests
on the spec's decision D11 (notes/assumptions 21). -/
def Obligations.ShiftsMoveVxAndKeepTheLostBit : Prop :=
  ∀ (s : State) (x y : Nibble),
    decodeWord (wordXYN 0x8 x y 0x6) = .ok (.shr x y) ∧ decodeWord (wordXYN 0x8 x y 0xE) = .ok (.shl x y) ∧
    ∃ t u, exec (.shr x y) s = .next t ∧ exec (.shl x y) s = .next u ∧
      (t.getV 0xF).toNat = (s.getV x).toNat % 2 ∧ (u.getV 0xF).toNat = (s.getV x).toNat / 128 ∧
      (x ≠ 0xF → (t.getV x).toNat = (s.getV x).toNat / 2 ∧ (u.getV x).toNat = 2 * (s.getV x).toNat % 256) ∧
      (∀ r ∈ [t, u], registersKeptBut [x, 0xF] s r ∧ r.pc = s.pc + 2 ∧ unchangedBut [.pc] s r)

/-- Cxkk: Vx becomes the free byte of this draw AND kk, so no bit outside kk is set, and the next draw is another one. Holds for every
value of the free byte and of the model's own draw counter. Rests on the spec's decision D16 (notes/assumptions 1, 3). -/
def Obligations.RndMasksAFreshByte : Prop :=
  ∀ (s : State) (x : Nibble) (kk : Byte),
    decodeWord (wordXKK 0xC x kk) = .ok (.rnd x kk) ∧
    ∃ t, exec (.rnd x kk) s = .next t ∧ t.getV x = Config.rnd s.draws &&& kk ∧
      (∀ b, kk.getLsbD b = false → (t.getV x).getLsbD b = false) ∧ t.draws = s.draws + 1 ∧
      registersKeptBut [x] s t ∧ t.pc = s.pc + 2 ∧ unchangedBut [.pc, .draws] s t

/-! ## Index register and memory -/

/-- Annn (R82): I becomes nnn. -/
def Obligations.LdISetsIndex : Prop :=
  ∀ (s : State) (nnn : Addr12),
    decodeWord (wordNNN 0xA nnn) = .ok (.ldI nnn) ∧
    ∃ t, exec (.ldI nnn) s = .next t ∧ t.i.toNat = nnn.toNat ∧ registersKeptBut [] s t ∧ t.pc = s.pc + 2 ∧
      unchangedBut [.index, .pc] s t

/-- Fx1E: I becomes I + Vx modulo 2^16 and VF is 1 when the unbounded sum exceeds 0xFFF, else 0; with x = F the old VF is added.
Rests on the spec's decision D13 (notes/assumptions 23). -/
def Obligations.AddIFlagsRangeOverflow : Prop :=
  ∀ (s : State) (x : Nibble),
    decodeWord (wordXKK 0xF x 0x1E) = .ok (.addI x) ∧
    ∃ t, exec (.addI x) s = .next t ∧ t.i.toNat = (s.i.toNat + (s.getV x).toNat) % 65536 ∧
      t.getV 0xF = (if s.i.toNat + (s.getV x).toNat > 0xFFF then 1 else 0) ∧
      registersKeptBut [0xF] s t ∧ t.pc = s.pc + 2 ∧ unchangedBut [.index, .pc] s t

/-- Fx29: I becomes 5 * Vx, not masked. Rests on the spec's decision D14 (notes/assumptions 24). -/
def Obligations.LdFPointsAtGlyph : Prop :=
  ∀ (s : State) (x : Nibble),
    decodeWord (wordXKK 0xF x 0x29) = .ok (.ldF x) ∧
    ∃ t, exec (.ldF x) s = .next t ∧ t.i.toNat = 5 * (s.getV x).toNat ∧ registersKeptBut [] s t ∧ t.pc = s.pc + 2 ∧
      unchangedBut [.index, .pc] s t

/-- Fx33, all three bytes in memory: hundreds, tens and ones of Vx at I, I + 1 and I + 2, every other byte as before. The bound rests on
the spec's decisions D7 and D35 (notes/assumptions 15). -/
def Obligations.LdBStoresDecimalDigits : Prop :=
  ∀ (s : State) (x : Nibble),
    decodeWord (wordXKK 0xF x 0x33) = .ok (.ldB x) ∧
    (s.i.toNat + 2 ≤ 0xFFF → ∃ t, exec (.ldB x) s = .next t ∧
      (t.readMem s.i.toNat).toNat = (s.getV x).toNat / 100 ∧
      (t.readMem (s.i.toNat + 1)).toNat = (s.getV x).toNat / 10 % 10 ∧
      (t.readMem (s.i.toNat + 2)).toNat = (s.getV x).toNat % 10 ∧
      memoryKeptOutside s.i.toNat 3 s t ∧ registersKeptBut [] s t ∧ t.pc = s.pc + 2 ∧ unchangedBut [.pc, .memory] s t)

/-- Fx55, all x + 1 bytes in memory: V0 to Vx inclusive at I to I + x, every other byte and I as before. Rests on the spec's decisions
D7, D12 and D35 and on conflict C6 (notes/assumptions 15, 22, 25). -/
def Obligations.StoreRegsCopiesToMemory : Prop :=
  ∀ (s : State) (x : Nibble),
    decodeWord (wordXKK 0xF x 0x55) = .ok (.storeRegs x) ∧
    (s.i.toNat + x.toNat ≤ 0xFFF → ∃ t, exec (.storeRegs x) s = .next t ∧
      (∀ k : Nibble, k.toNat ≤ x.toNat → t.readMem (s.i.toNat + k.toNat) = s.getV k) ∧
      memoryKeptOutside s.i.toNat (x.toNat + 1) s t ∧ registersKeptBut [] s t ∧ t.pc = s.pc + 2 ∧
      unchangedBut [.pc, .memory] s t)

/-- Fx65, all x + 1 bytes in memory: V0 to Vx inclusive from I to I + x, the registers above x and I as before. Rests on the spec's
decisions D7, D12 and D35 and on conflict C6 (notes/assumptions 15, 22, 25). -/
def Obligations.LoadRegsCopiesFromMemory : Prop :=
  ∀ (s : State) (x : Nibble),
    decodeWord (wordXKK 0xF x 0x65) = .ok (.loadRegs x) ∧
    (s.i.toNat + x.toNat ≤ 0xFFF → ∃ t, exec (.loadRegs x) s = .next t ∧
      (∀ k : Nibble, k.toNat ≤ x.toNat → t.getV k = s.readMem (s.i.toNat + k.toNat)) ∧
      (∀ k : Nibble, x.toNat < k.toNat → t.getV k = s.getV k) ∧ t.pc = s.pc + 2 ∧ unchangedBut [.pc] s t)

/-- Fx33, Fx55, Fx65 and Dxyn whose access leaves memory: AddressOutOfRange with the smallest bad address, which is 0x1000 when I is in
memory and I otherwise, and nothing else. Rests on the spec's decisions D7, D9 and D35 (notes/assumptions 5, 15). -/
def Obligations.AccessOutsideMemoryTraps : Prop :=
  ∀ (s : State) (x y n : Nibble) (t : State),
    t = { s with fault := some (.addressOutOfRange (if s.i.toNat ≤ 0xFFF then 0x1000 else s.i.toNat)) } →
    (0xFFF < s.i.toNat + 2 → exec (.ldB x) s = .next t) ∧
    (0xFFF < s.i.toNat + x.toNat → exec (.storeRegs x) s = .next t ∧ exec (.loadRegs x) s = .next t) ∧
    (0 < n.toNat → 0xFFF < s.i.toNat + n.toNat - 1 → exec (.drw x y n) s = .next t)

/-- A store is seen by the very next fetch (spec/20_memory.md section 5): after Fx55 or Fx33, for every x and every I whose block is in
memory, the word fetched behind the instruction is made of the bytes stored where the block covers its addresses, and of the bytes
there before where it does not. Which bytes are stored rests on the spec's decisions D7 and D35 and on conflict C6
(notes/assumptions 15, 25). -/
def Obligations.StoredCodeIsFetchedNext : Prop :=
  ∀ (s : State) (x : Nibble), s.pc.toNat ≤ 0xFFC →
    (s.i.toNat + x.toNat ≤ 0xFFF → ∃ t, exec (.storeRegs x) s = .next t ∧
      t.fetch = .ok (wordOfBytes (byteAfterStore s (s.registerBlock x) (s.pc.toNat + 2))
        (byteAfterStore s (s.registerBlock x) (s.pc.toNat + 3)))) ∧
    (s.i.toNat + 2 ≤ 0xFFF → ∃ t, exec (.ldB x) s = .next t ∧
      t.fetch = .ok (wordOfBytes (byteAfterStore s (decimalBlock (s.getV x)) (s.pc.toNat + 2))
        (byteAfterStore s (decimalBlock (s.getV x)) (s.pc.toNat + 3))))

/-! ## Display -/

/-- 00E0 (R88): every pixel is off and DIRTY is set. -/
def Obligations.ClsBlanksAndMarksDirty : Prop :=
  ∀ s : State,
    decodeWord 0x00E0 = .ok .cls ∧
    ∃ t, exec .cls s = .next t ∧ (∀ px py, px < 64 → py < 32 → t.fb.get px py = false) ∧ t.dirty = true ∧
      registersKeptBut [] s t ∧ t.pc = s.pc + 2 ∧ unchangedBut [.pc, .pixels, .dirty] s t

/-- Dxyn with its sprite in memory, pixel by pixel: each pixel becomes itself XOR the sprite bit on it, VF is 1 exactly when a lit pixel
had a sprite bit on it, and DIRTY is set exactly when it was set or a sprite bit falls inside the screen. The loop of the rule equals
this unordered description. Rests on the spec's decisions D7, D17 and D18 (notes/assumptions 15, 26, 27). -/
def Obligations.DrawIsPixelwiseXor : Prop :=
  ∀ (s : State) (x y n : Nibble),
    decodeWord (wordXYN 0xD x y n) = .ok (.drw x y n) ∧
    (n.toNat = 0 ∨ s.i.toNat + n.toNat - 1 ≤ 0xFFF → ∃ t, exec (.drw x y n) s = .next t ∧
      (∀ px py, px < 64 → py < 32 → t.fb.get px py = (s.fb.get px py != spriteCovers s x y n px py)) ∧
      (t.getV 0xF = 1 ↔ ∃ px py, px < 64 ∧ py < 32 ∧ spriteCovers s x y n px py = true ∧ s.fb.get px py = true) ∧
      (t.getV 0xF = 0 ∨ t.getV 0xF = 1) ∧
      (t.dirty = true ↔ s.dirty = true ∨ ∃ px py, px < 64 ∧ py < 32 ∧ spriteCovers s x y n px py = true) ∧
      registersKeptBut [0xF] s t ∧ t.pc = s.pc + 2 ∧ unchangedBut [.pc, .pixels, .dirty] s t)

/-! ## Keys and timers -/

/-- Ex9E and ExA1: with a key index in Vx, skip when that key is down (Pressed or Held), or up; with another value, KeyIndexOutOfRange
and nothing else. Rests on the spec's decisions D9, D19 and D20 (notes/assumptions 5, 28, 29). -/
def Obligations.KeyTestsSkipOrTrap : Prop :=
  ∀ (s : State) (x : Nibble),
    decodeWord (wordXKK 0xE x 0x9E) = .ok (.skp x) ∧ decodeWord (wordXKK 0xE x 0xA1) = .ok (.sknp x) ∧
    (∀ k : KeyIndex, (s.getV x).toNat = k.val → ∃ t u, exec (.skp x) s = .next t ∧ exec (.sknp x) s = .next u ∧
      t.pc = (if s.getKey k = .pressed ∨ s.getKey k = .held then s.pc + 4 else s.pc + 2) ∧
      u.pc = (if s.getKey k = .released then s.pc + 4 else s.pc + 2) ∧
      (∀ r ∈ [t, u], registersKeptBut [] s r ∧ unchangedBut [.pc] s r)) ∧
    (0xF < (s.getV x).toNat →
      exec (.skp x) s = .next { s with fault := some (.keyIndexOutOfRange (s.getV x)) } ∧
      exec (.sknp x) s = .next { s with fault := some (.keyIndexOutOfRange (s.getV x)) })

/-- Fx0A: the machine waits for a key for Vx and PC stays. Rests on the spec's decision D22 (notes/assumptions 31). -/
def Obligations.LdVxKStartsKeyWait : Prop :=
  ∀ (s : State) (x : Nibble),
    decodeWord (wordXKK 0xF x 0x0A) = .ok (.ldVxK x) ∧
    ∃ t, exec (.ldVxK x) s = .next t ∧ t.waiting = true ∧ t.waitReg = x ∧ registersKeptBut [] s t ∧
      unchangedBut [.keyWait] s t

/-- Fx07 (R95): Vx becomes DT. -/
def Obligations.LdVxDtReadsDelay : Prop :=
  ∀ (s : State) (x : Nibble),
    decodeWord (wordXKK 0xF x 0x07) = .ok (.ldVxDt x) ∧
    ∃ t, exec (.ldVxDt x) s = .next t ∧ t.getV x = s.dt ∧ registersKeptBut [x] s t ∧ t.pc = s.pc + 2 ∧
      unchangedBut [.pc] s t

/-- Fx15 (R96): DT becomes Vx. -/
def Obligations.LdDtVxSetsDelay : Prop :=
  ∀ (s : State) (x : Nibble),
    decodeWord (wordXKK 0xF x 0x15) = .ok (.ldDtVx x) ∧
    ∃ t, exec (.ldDtVx x) s = .next t ∧ t.dt = s.getV x ∧ registersKeptBut [] s t ∧ t.pc = s.pc + 2 ∧
      unchangedBut [.pc, .delay] s t

/-- Fx18 (R97): ST becomes Vx, and the tone is on exactly when Vx is not 0. -/
def Obligations.LdStVxSetsSound : Prop :=
  ∀ (s : State) (x : Nibble),
    decodeWord (wordXKK 0xF x 0x18) = .ok (.ldStVx x) ∧
    ∃ t, exec (.ldStVx x) s = .next t ∧ t.st = s.getV x ∧ (t.tone = true ↔ s.getV x ≠ 0) ∧ registersKeptBut [] s t ∧
      t.pc = s.pc + 2 ∧ unchangedBut [.pc, .sound] s t

/-! ## Host transactions -/

/-- TICK_TIMER: any number of timer ticks takes that much off DT and ST, stopping at 0, and changes nothing else, key-wait or not
(spec/60_exceptions.md section 6). That the ticks stand at the head of a list in the state, are taken off it in order and leave the
rest of it, is the model's choice (notes/assumptions 4). -/
def Obligations.TimerTicksCountDownToZero : Prop :=
  ∀ (n : Nat) (s : State), s.fault = none →
    ∃ t, Sys2Proof.core.run n { s with schedule := List.replicate n .tickTimer ++ s.schedule } = .next t ∧
      t.dt.toNat = s.dt.toNat - n ∧ t.st.toNat = s.st.toNat - n ∧
      registersKeptBut [] s t ∧ unchangedBut [.delay, .sound] s t

/-- KEY_EVENT(k, p): Table KL, with KEY_FRAME set exactly by a press of a released key. Rests on the spec's decision D21
(notes/assumptions 30). -/
def Obligations.KeyEventFollowsTable : Prop :=
  ∀ (s : State) (k : KeyIndex), s.fault = none →
    ∃ t u, transact (.keyEvent k .press) s = .next t ∧ transact (.keyEvent k .release) s = .next u ∧
      (s.getKey k = .released → t.getKey k = .pressed ∧ t.keyFrame = true) ∧
      (s.getKey k ≠ .released → t.getKey k = .held ∧ t.keyFrame = s.keyFrame) ∧
      u.getKey k = .released ∧ u.keyFrame = s.keyFrame ∧
      (∀ r ∈ [t, u], (∀ l, l ≠ k → r.getKey l = s.getKey l) ∧ registersKeptBut [] s r ∧ unchangedBut [.keys, .keyFrame] s r)

/-- FRAME_RESET (R110): KEY_FRAME becomes 0 and nothing else changes. -/
def Obligations.FrameResetClearsFrameFlag : Prop :=
  ∀ s : State, s.fault = none →
    ∃ t, transact .frameReset s = .next t ∧ t.keyFrame = false ∧ registersKeptBut [] s t ∧ unchangedBut [.keyFrame] s t

/-- FB_READ and DIRTY_QUERY (R91) and TIMER_READ (R107), running or waiting: what each returns and that only DIRTY_QUERY changes
anything, DIRTY. The reads in a state with an error are stated by FaultedStateIsTerminal. -/
def Obligations.OutputsReturnDisplayAndTimers : Prop :=
  ∀ s : State, s.fault = none →
    reply .fbRead s = .pixels s.fb ∧ transact .fbRead s = .next s ∧
    reply .timerRead s = .timers s.dt s.st (decide (s.st ≠ 0)) ∧ transact .timerRead s = .next s ∧
    reply .dirtyQuery s = .wasUpdated s.dirty ∧
    ∃ t, transact .dirtyQuery s = .next t ∧ t.dirty = false ∧ registersKeptBut [] s t ∧ unchangedBut [.dirty] s t

/-- LOAD: the ROM's bytes from 0x200 up, every other byte as before; a ROM of more than 3584 bytes is refused. Rests on the spec's
decision D27 (notes/assumptions 10). -/
def Obligations.LoadPlacesRomOrRefuses : Prop :=
  ∀ (s : State) (rom : List Byte), s.fault = none →
    (rom.length ≤ 3584 → ∃ t, transact (.load rom) s = .next t ∧
      (∀ j, j < rom.length → t.readMem (0x200 + j) = rom.getD j 0) ∧
      memoryKeptOutside 0x200 rom.length s t ∧ registersKeptBut [] s t ∧ unchangedBut [.memory] s t) ∧
    (3584 < rom.length → transact (.load rom) s = .refused (.romTooLarge rom.length))

/-- A transaction other than TICK_INSTR changes only the state its row of Table T names: LOAD memory, TICK_TIMER the two timers,
KEY_EVENT the key latch and KEY_FRAME, FRAME_RESET KEY_FRAME, DIRTY_QUERY DIRTY, FB_READ and TIMER_READ nothing; in particular none
writes a register, I, PC, the call stack, the key-wait or FAULT (spec/40_execution_cycle.md Table T). That none counts a draw or
touches what is left of the schedule is about the model's own fields (notes/assumptions 3, 4). -/
def Obligations.HostTransactionsKeepProgramState : Prop :=
  ∀ (r : Transaction) (s t : State), r ≠ .tickInstr → transact r s = .next t →
    registersKeptBut [] s t ∧ unchangedBut r.writes s t

/-! ## Reset and invariants -/

/-- The state after reset, field by field as Table R gives it: all but STACK and INIT_MEM, to which it gives no value, and the ROM,
which LOAD puts there (LoadPlacesRomOrRefuses). The values of DT to KEY_FRAME are the spec's decision D24, FAULT = none its decision D9, and the font bytes, written out here, its default Table
F, decision D15 (notes/assumptions 5, 6, 9). -/
def Obligations.ResetMatchesTableR : Prop :=
  (∀ x, State.reset.getV x = 0) ∧ State.reset.i = 0 ∧ State.reset.pc = 0x200 ∧ State.reset.sp = 0 ∧
  State.reset.dt = 0 ∧ State.reset.st = 0 ∧ State.reset.waiting = false ∧ State.reset.waitReg = 0 ∧
  (∀ px py, px < 64 → py < 32 → State.reset.fb.get px py = false) ∧ State.reset.dirty = false ∧
  (∀ k, State.reset.getKey k = .released) ∧ State.reset.keyFrame = false ∧ State.reset.fault = none ∧
  (∀ d : Nibble, (List.range 5).map (fun k => State.reset.readMem (5 * d.toNat + k)) = tableF d)

/-- Construction with any 80 font bytes and any INIT_MEM: memory holds exactly these, and everything else is as at reset. Rests on the
spec's decisions D15 and D25 (notes/assumptions 6, 7); that memory has a canonical form is the model's choice (notes/assumptions 40). -/
def Obligations.ConstructionHoldsFontAndInitMem : Prop :=
  ∀ (font : List Byte) (initMem : Nat → Byte), font.length = 80 →
    (∀ a, a < 80 → (State.construct font initMem).readMem a = font.getD a 0) ∧
    (∀ a, 80 ≤ a → a < 4096 → (State.construct font initMem).readMem a = initMem a) ∧
    (State.construct font initMem).mem.wf ∧
    registersKeptBut [] State.reset (State.construct font initMem) ∧
    unchangedBut [.memory] State.reset (State.construct font initMem)

/-- The reset state meets both invariants: memory in the model's own canonical form (notes/assumptions 40) and PC bounded as
StepsKeepPcBounded says, with no key-wait and no return address held (spec/10_state.md sections 3 and 4;
spec/41_control_flow.md section 1; spec/70_reset_and_hazards.md section 1). -/
def Obligations.ResetMeetsInvariants : Prop := State.reset.mem.wf ∧ State.reset.pcBounded

/-- Every step keeps memory inside the 4096 bytes (spec/20_memory.md sections 1 and 3) and in canonical form, sorted, with no address
twice and no cell that says what an unlisted address reads as, which is the model's choice (notes/assumptions 40). -/
def Obligations.StepsKeepMemoryCanonical : Prop :=
  ∀ s t : State, s.mem.wf → step s = .next t → t.mem.wf

/-- Every step keeps PC at most 0x10FE, fetchable during a key-wait, with fetchable return addresses: no 16-bit wrap of PC is reachable
(spec/10_state.md section 3). The bound 0x10FE rests on the spec's decision D6 (notes/assumptions 14), the fetchable return addresses
on D3 (notes/assumptions 13), and the fetchable PC during a key-wait on D22 (notes/assumptions 31). -/
def Obligations.StepsKeepPcBounded : Prop :=
  ∀ s t : State, s.pcBounded → step s = .next t → t.pcBounded

/-- From a halted state an instruction tick, listed or not, changes nothing. Rests on the spec's decision D29 (notes/assumptions 39). -/
def Obligations.HaltedTickIsIdle : Prop := ∀ s : State, s.halted → transact .tickInstr s = .next s

/-- Stack entries at or above SP are unobservable: two states that differ only there answer every step alike, again up to such
entries (spec/10_state.md section 4). -/
def Obligations.StaleStackIsUnobservable : Prop :=
  ∀ s t : State, sameButStaleStack s t → alike sameButStaleStack (step s) (step t)

/-- DIRTY and ST are outputs only: two states that differ only there answer every step alike, again up to DIRTY and ST
(spec/10_state.md sections 5 and 6). -/
def Obligations.OutputsAreUnobservable : Prop :=
  ∀ s t : State, sameButOutputs s t → alike sameButOutputs (step s) (step t)

end
end

