-- ==== Sys2Proof/Laws/Decode.lean ====
section
/-! SUPPORT. The fields of a word put together from fields, a word put together from its own fields, and the mask of a table row on
a word put together from fields. All are bit by bit. -/

namespace Sys2Proof

@[simp] theorem opField_wordXYN (op x y n : Nibble) :
    opField (wordXYN op x y n) = op := by
  apply BitVec.eq_of_getLsbD_eq
  intro i hi
  simp only [opField, wordXYN, BitVec.getLsbD_extractLsb', BitVec.getLsbD_append]
  interval_cases i <;> simp

@[simp] theorem xField_wordXYN (op x y n : Nibble) :
    xField (wordXYN op x y n) = x := by
  apply BitVec.eq_of_getLsbD_eq
  intro i hi
  simp only [xField, wordXYN, BitVec.getLsbD_extractLsb', BitVec.getLsbD_append]
  interval_cases i <;> simp

@[simp] theorem yField_wordXYN (op x y n : Nibble) :
    yField (wordXYN op x y n) = y := by
  apply BitVec.eq_of_getLsbD_eq
  intro i hi
  simp only [yField, wordXYN, BitVec.getLsbD_extractLsb', BitVec.getLsbD_append]
  interval_cases i <;> simp

@[simp] theorem nField_wordXYN (op x y n : Nibble) :
    nField (wordXYN op x y n) = n := by
  apply BitVec.eq_of_getLsbD_eq
  intro i hi
  simp only [nField, wordXYN, BitVec.getLsbD_extractLsb', BitVec.getLsbD_append]
  interval_cases i <;> simp

@[simp] theorem opField_wordXKK (op x : Nibble) (kk : Byte) :
    opField (wordXKK op x kk) = op := by
  apply BitVec.eq_of_getLsbD_eq
  intro i hi
  simp only [opField, wordXKK, BitVec.getLsbD_extractLsb', BitVec.getLsbD_append]
  interval_cases i <;> simp

@[simp] theorem xField_wordXKK (op x : Nibble) (kk : Byte) :
    xField (wordXKK op x kk) = x := by
  apply BitVec.eq_of_getLsbD_eq
  intro i hi
  simp only [xField, wordXKK, BitVec.getLsbD_extractLsb', BitVec.getLsbD_append]
  interval_cases i <;> simp

@[simp] theorem kkField_wordXKK (op x : Nibble) (kk : Byte) :
    kkField (wordXKK op x kk) = kk := by
  apply BitVec.eq_of_getLsbD_eq
  intro i hi
  simp only [kkField, wordXKK, BitVec.getLsbD_extractLsb', BitVec.getLsbD_append]
  interval_cases i <;> simp

@[simp] theorem opField_wordNNN (op : Nibble) (nnn : Addr12) :
    opField (wordNNN op nnn) = op := by
  apply BitVec.eq_of_getLsbD_eq
  intro i hi
  simp only [opField, wordNNN, BitVec.getLsbD_extractLsb', BitVec.getLsbD_append]
  interval_cases i <;> simp

@[simp] theorem nnnField_wordNNN (op : Nibble) (nnn : Addr12) :
    nnnField (wordNNN op nnn) = nnn := by
  apply BitVec.eq_of_getLsbD_eq
  intro i hi
  simp only [nnnField, wordNNN, BitVec.getLsbD_extractLsb', BitVec.getLsbD_append]
  interval_cases i <;> simp

theorem wordXYN_fields (w : Word) :
    wordXYN (opField w) (xField w) (yField w) (nField w) = w := by
  apply BitVec.eq_of_getLsbD_eq
  intro i hi
  simp only [wordXYN, opField, xField, yField, nField, BitVec.getLsbD_extractLsb', BitVec.getLsbD_append]
  interval_cases i <;> simp

theorem wordXKK_fields (w : Word) :
    wordXKK (opField w) (xField w) (kkField w) = w := by
  apply BitVec.eq_of_getLsbD_eq
  intro i hi
  simp only [wordXKK, opField, xField, kkField, BitVec.getLsbD_extractLsb', BitVec.getLsbD_append]
  interval_cases i <;> simp

theorem wordNNN_fields (w : Word) :
    wordNNN (opField w) (nnnField w) = w := by
  apply BitVec.eq_of_getLsbD_eq
  intro i hi
  simp only [wordNNN, opField, nnnField, BitVec.getLsbD_extractLsb', BitVec.getLsbD_append]
  interval_cases i <;> simp

@[simp] theorem wordOfBytes_extract (w : Word) :
    wordOfBytes (w.extractLsb' 8 8) (w.extractLsb' 0 8) = w := by
  apply BitVec.eq_of_getLsbD_eq
  intro i hi
  simp only [wordOfBytes, BitVec.getLsbD_extractLsb', BitVec.getLsbD_append]
  interval_cases i <;> simp

/-- Decoding an instruction's own word is decoding its bytes. -/
theorem decode_bytesOfWord (w : Word) (rest : List Byte) :
    decode (bytesOfWord w ++ rest) = (decodeWord w).map (fun i => (i, rest)) := by
  simp only [bytesOfWord, List.cons_append, List.nil_append, decode, wordOfBytes_extract]
  cases decodeWord w <;> rfl

theorem wordNNN_mask (op : Nibble) (nnn : Addr12) :
    wordNNN op nnn &&& 0xF000 = wordNNN op 0 := by
  apply BitVec.eq_of_getLsbD_eq
  intro i hi
  simp only [wordNNN, BitVec.getLsbD_and, BitVec.getLsbD_append]
  interval_cases i <;> simp

theorem wordXKK_mask_op (op x : Nibble) (kk : Byte) :
    wordXKK op x kk &&& 0xF000 = wordXKK op 0 0 := by
  apply BitVec.eq_of_getLsbD_eq
  intro i hi
  simp only [wordXKK, BitVec.getLsbD_and, BitVec.getLsbD_append]
  interval_cases i <;> simp

theorem wordXKK_mask_op_kk (op x : Nibble) (kk : Byte) :
    wordXKK op x kk &&& 0xF0FF = wordXKK op 0 kk := by
  apply BitVec.eq_of_getLsbD_eq
  intro i hi
  simp only [wordXKK, BitVec.getLsbD_and, BitVec.getLsbD_append]
  interval_cases i <;> simp

theorem wordXYN_mask_op (op x y n : Nibble) :
    wordXYN op x y n &&& 0xF000 = wordXYN op 0 0 0 := by
  apply BitVec.eq_of_getLsbD_eq
  intro i hi
  simp only [wordXYN, BitVec.getLsbD_and, BitVec.getLsbD_append]
  interval_cases i <;> simp

theorem wordXYN_mask_op_n (op x y n : Nibble) :
    wordXYN op x y n &&& 0xF00F = wordXYN op 0 0 n := by
  apply BitVec.eq_of_getLsbD_eq
  intro i hi
  simp only [wordXYN, BitVec.getLsbD_and, BitVec.getLsbD_append]
  interval_cases i <;> simp

theorem kkField_wordXYN (op x y n : Nibble) :
    kkField (wordXYN op x y n) = y ++ n := by
  apply BitVec.eq_of_getLsbD_eq
  intro i hi
  simp only [kkField, wordXYN, BitVec.getLsbD_extractLsb', BitVec.getLsbD_append]
  interval_cases i <;> simp

/-! ## Words by nibbles -/

theorem wordXYN_and (a b c d e f g h : Nibble) :
    wordXYN a b c d &&& wordXYN e f g h = wordXYN (a &&& e) (b &&& f) (c &&& g) (d &&& h) := by
  apply BitVec.eq_of_getLsbD_eq
  intro i hi
  simp only [wordXYN, BitVec.getLsbD_and, BitVec.getLsbD_append]
  interval_cases i <;> simp

theorem wordXYN_inj (a b c d e f g h : Nibble) :
    wordXYN a b c d = wordXYN e f g h ↔ a = e ∧ b = f ∧ c = g ∧ d = h := by
  constructor
  · intro hw
    exact ⟨by simpa using congrArg opField hw, by simpa using congrArg xField hw,
      by simpa using congrArg yField hw, by simpa using congrArg nField hw⟩
  · rintro ⟨rfl, rfl, rfl, rfl⟩
    rfl

/-- A word matches a row when each nibble does. -/
theorem OpcodeRow.matchesWord_wordXYN (r : OpcodeRow) (op x y n : Nibble) :
    r.matchesWord (wordXYN op x y n) =
      (op &&& opField r.mask == opField r.pattern && x &&& xField r.mask == xField r.pattern &&
        y &&& yField r.mask == yField r.pattern && n &&& nField r.mask == nField r.pattern) := by
  unfold OpcodeRow.matchesWord
  conv_lhs => rw [← wordXYN_fields r.mask, ← wordXYN_fields r.pattern, wordXYN_and]
  rw [Bool.eq_iff_iff]
  simp [wordXYN_inj, and_assoc]

end Sys2Proof
end

