-- ==== Sys2Proof/Laws/Params.lean ====
section
/-! SUPPORT. The values of the constants of Table P. `simp` writes the value for the name, so that arithmetic over the machine's
widths and sizes is arithmetic over numerals. -/

namespace Sys2Proof.Machine

@[simp] theorem Params.numV_eq : Params.numV = 16 := rfl
@[simp] theorem Params.vWidth_eq : Params.vWidth = 8 := rfl
@[simp] theorem Params.iWidth_eq : Params.iWidth = 16 := rfl
@[simp] theorem Params.pcWidth_eq : Params.pcWidth = 16 := rfl
@[simp] theorem Params.stackCapacity_eq : Params.stackCapacity = 16 := rfl
@[simp] theorem Params.stackEntryWidth_eq : Params.stackEntryWidth = 16 := rfl
@[simp] theorem Params.spRange_eq : Params.spRange = 17 := rfl
@[simp] theorem Params.memSize_eq : Params.memSize = 4096 := rfl
@[simp] theorem Params.addrMax_eq : Params.addrMax = 0xFFF := rfl
@[simp] theorem Params.fetchMax_eq : Params.fetchMax = 0xFFE := rfl
@[simp] theorem Params.pcHighest_eq : Params.pcHighest = 0x10FE := rfl
@[simp] theorem Params.programBase_eq : Params.programBase = 0x200 := rfl
@[simp] theorem Params.reservedHi_eq : Params.reservedHi = 0x1FF := rfl
@[simp] theorem Params.romMax_eq : Params.romMax = 3584 := rfl
@[simp] theorem Params.fontBytes_eq : Params.fontBytes = 80 := rfl
@[simp] theorem Params.fbWidth_eq : Params.fbWidth = 64 := rfl
@[simp] theorem Params.fbHeight_eq : Params.fbHeight = 32 := rfl
@[simp] theorem Params.numKeys_eq : Params.numKeys = 16 := rfl
@[simp] theorem Params.dtWidth_eq : Params.dtWidth = 8 := rfl
@[simp] theorem Params.stWidth_eq : Params.stWidth = 8 := rfl

/-- The default font has its 80 bytes (spec/20_memory.md R28). -/
theorem Params.length_font : Params.font.length = Params.fontBytes := rfl

end Sys2Proof.Machine
end

