-- ==== Sys2Proof/Laws/State.lean ====
section
/-! SUPPORT. One lemma per field per named update of the state, so that no proof unfolds a record update. -/

namespace Sys2Proof.Machine

/-! ## setV -/

@[simp] theorem State.setV_v (s : State) (x : Nibble) (b : VByte) : (s.setV x b).v = s.v.set x.toNat b (isReg x) := rfl
@[simp] theorem State.setV_i (s : State) (x : Nibble) (b : VByte) : (s.setV x b).i = s.i := rfl
@[simp] theorem State.setV_pc (s : State) (x : Nibble) (b : VByte) : (s.setV x b).pc = s.pc := rfl
@[simp] theorem State.setV_sp (s : State) (x : Nibble) (b : VByte) : (s.setV x b).sp = s.sp := rfl
@[simp] theorem State.setV_stack (s : State) (x : Nibble) (b : VByte) : (s.setV x b).stack = s.stack := rfl
@[simp] theorem State.setV_mem (s : State) (x : Nibble) (b : VByte) : (s.setV x b).mem = s.mem := rfl
@[simp] theorem State.setV_fb (s : State) (x : Nibble) (b : VByte) : (s.setV x b).fb = s.fb := rfl
@[simp] theorem State.setV_dirty (s : State) (x : Nibble) (b : VByte) : (s.setV x b).dirty = s.dirty := rfl
@[simp] theorem State.setV_dt (s : State) (x : Nibble) (b : VByte) : (s.setV x b).dt = s.dt := rfl
@[simp] theorem State.setV_st (s : State) (x : Nibble) (b : VByte) : (s.setV x b).st = s.st := rfl
@[simp] theorem State.setV_waiting (s : State) (x : Nibble) (b : VByte) : (s.setV x b).waiting = s.waiting := rfl
@[simp] theorem State.setV_waitReg (s : State) (x : Nibble) (b : VByte) : (s.setV x b).waitReg = s.waitReg := rfl
@[simp] theorem State.setV_keys (s : State) (x : Nibble) (b : VByte) : (s.setV x b).keys = s.keys := rfl
@[simp] theorem State.setV_keyFrame (s : State) (x : Nibble) (b : VByte) : (s.setV x b).keyFrame = s.keyFrame := rfl
@[simp] theorem State.setV_fault (s : State) (x : Nibble) (b : VByte) : (s.setV x b).fault = s.fault := rfl
@[simp] theorem State.setV_draws (s : State) (x : Nibble) (b : VByte) : (s.setV x b).draws = s.draws := rfl
@[simp] theorem State.setV_schedule (s : State) (x : Nibble) (b : VByte) : (s.setV x b).schedule = s.schedule := rfl
@[simp] theorem State.setV_readMem (s : State) (x : Nibble) (b : VByte) (a : Nat) : (s.setV x b).readMem a = s.readMem a := rfl
@[simp] theorem State.setV_getKey (s : State) (x : Nibble) (b : VByte) (q : KeyIndex) : (s.setV x b).getKey q = s.getKey q := rfl

/-! ## setI -/

@[simp] theorem State.setI_v (s : State) (w : IndexWord) : (s.setI w).v = s.v := rfl
@[simp] theorem State.setI_i (s : State) (w : IndexWord) : (s.setI w).i = w := rfl
@[simp] theorem State.setI_pc (s : State) (w : IndexWord) : (s.setI w).pc = s.pc := rfl
@[simp] theorem State.setI_sp (s : State) (w : IndexWord) : (s.setI w).sp = s.sp := rfl
@[simp] theorem State.setI_stack (s : State) (w : IndexWord) : (s.setI w).stack = s.stack := rfl
@[simp] theorem State.setI_mem (s : State) (w : IndexWord) : (s.setI w).mem = s.mem := rfl
@[simp] theorem State.setI_fb (s : State) (w : IndexWord) : (s.setI w).fb = s.fb := rfl
@[simp] theorem State.setI_dirty (s : State) (w : IndexWord) : (s.setI w).dirty = s.dirty := rfl
@[simp] theorem State.setI_dt (s : State) (w : IndexWord) : (s.setI w).dt = s.dt := rfl
@[simp] theorem State.setI_st (s : State) (w : IndexWord) : (s.setI w).st = s.st := rfl
@[simp] theorem State.setI_waiting (s : State) (w : IndexWord) : (s.setI w).waiting = s.waiting := rfl
@[simp] theorem State.setI_waitReg (s : State) (w : IndexWord) : (s.setI w).waitReg = s.waitReg := rfl
@[simp] theorem State.setI_keys (s : State) (w : IndexWord) : (s.setI w).keys = s.keys := rfl
@[simp] theorem State.setI_keyFrame (s : State) (w : IndexWord) : (s.setI w).keyFrame = s.keyFrame := rfl
@[simp] theorem State.setI_fault (s : State) (w : IndexWord) : (s.setI w).fault = s.fault := rfl
@[simp] theorem State.setI_draws (s : State) (w : IndexWord) : (s.setI w).draws = s.draws := rfl
@[simp] theorem State.setI_schedule (s : State) (w : IndexWord) : (s.setI w).schedule = s.schedule := rfl
@[simp] theorem State.setI_getV (s : State) (w : IndexWord) (y : Nibble) : (s.setI w).getV y = s.getV y := rfl
@[simp] theorem State.setI_readMem (s : State) (w : IndexWord) (a : Nat) : (s.setI w).readMem a = s.readMem a := rfl
@[simp] theorem State.setI_getKey (s : State) (w : IndexWord) (q : KeyIndex) : (s.setI w).getKey q = s.getKey q := rfl

/-! ## setPc -/

@[simp] theorem State.setPc_v (s : State) (w : PcWord) : (s.setPc w).v = s.v := rfl
@[simp] theorem State.setPc_i (s : State) (w : PcWord) : (s.setPc w).i = s.i := rfl
@[simp] theorem State.setPc_pc (s : State) (w : PcWord) : (s.setPc w).pc = w := rfl
@[simp] theorem State.setPc_sp (s : State) (w : PcWord) : (s.setPc w).sp = s.sp := rfl
@[simp] theorem State.setPc_stack (s : State) (w : PcWord) : (s.setPc w).stack = s.stack := rfl
@[simp] theorem State.setPc_mem (s : State) (w : PcWord) : (s.setPc w).mem = s.mem := rfl
@[simp] theorem State.setPc_fb (s : State) (w : PcWord) : (s.setPc w).fb = s.fb := rfl
@[simp] theorem State.setPc_dirty (s : State) (w : PcWord) : (s.setPc w).dirty = s.dirty := rfl
@[simp] theorem State.setPc_dt (s : State) (w : PcWord) : (s.setPc w).dt = s.dt := rfl
@[simp] theorem State.setPc_st (s : State) (w : PcWord) : (s.setPc w).st = s.st := rfl
@[simp] theorem State.setPc_waiting (s : State) (w : PcWord) : (s.setPc w).waiting = s.waiting := rfl
@[simp] theorem State.setPc_waitReg (s : State) (w : PcWord) : (s.setPc w).waitReg = s.waitReg := rfl
@[simp] theorem State.setPc_keys (s : State) (w : PcWord) : (s.setPc w).keys = s.keys := rfl
@[simp] theorem State.setPc_keyFrame (s : State) (w : PcWord) : (s.setPc w).keyFrame = s.keyFrame := rfl
@[simp] theorem State.setPc_fault (s : State) (w : PcWord) : (s.setPc w).fault = s.fault := rfl
@[simp] theorem State.setPc_draws (s : State) (w : PcWord) : (s.setPc w).draws = s.draws := rfl
@[simp] theorem State.setPc_schedule (s : State) (w : PcWord) : (s.setPc w).schedule = s.schedule := rfl
@[simp] theorem State.setPc_getV (s : State) (w : PcWord) (y : Nibble) : (s.setPc w).getV y = s.getV y := rfl
@[simp] theorem State.setPc_readMem (s : State) (w : PcWord) (a : Nat) : (s.setPc w).readMem a = s.readMem a := rfl
@[simp] theorem State.setPc_getKey (s : State) (w : PcWord) (q : KeyIndex) : (s.setPc w).getKey q = s.getKey q := rfl

/-! ## storeBytes -/

@[simp] theorem State.storeBytes_v (s : State) (a : Nat) (bs : List Byte) : (s.storeBytes a bs).v = s.v := rfl
@[simp] theorem State.storeBytes_i (s : State) (a : Nat) (bs : List Byte) : (s.storeBytes a bs).i = s.i := rfl
@[simp] theorem State.storeBytes_pc (s : State) (a : Nat) (bs : List Byte) : (s.storeBytes a bs).pc = s.pc := rfl
@[simp] theorem State.storeBytes_sp (s : State) (a : Nat) (bs : List Byte) : (s.storeBytes a bs).sp = s.sp := rfl
@[simp] theorem State.storeBytes_stack (s : State) (a : Nat) (bs : List Byte) : (s.storeBytes a bs).stack = s.stack := rfl
@[simp] theorem State.storeBytes_mem (s : State) (a : Nat) (bs : List Byte) :
    (s.storeBytes a bs).mem = s.mem.writeBytes a bs := rfl
@[simp] theorem State.storeBytes_fb (s : State) (a : Nat) (bs : List Byte) : (s.storeBytes a bs).fb = s.fb := rfl
@[simp] theorem State.storeBytes_dirty (s : State) (a : Nat) (bs : List Byte) : (s.storeBytes a bs).dirty = s.dirty := rfl
@[simp] theorem State.storeBytes_dt (s : State) (a : Nat) (bs : List Byte) : (s.storeBytes a bs).dt = s.dt := rfl
@[simp] theorem State.storeBytes_st (s : State) (a : Nat) (bs : List Byte) : (s.storeBytes a bs).st = s.st := rfl
@[simp] theorem State.storeBytes_waiting (s : State) (a : Nat) (bs : List Byte) : (s.storeBytes a bs).waiting = s.waiting := rfl
@[simp] theorem State.storeBytes_waitReg (s : State) (a : Nat) (bs : List Byte) : (s.storeBytes a bs).waitReg = s.waitReg := rfl
@[simp] theorem State.storeBytes_keys (s : State) (a : Nat) (bs : List Byte) : (s.storeBytes a bs).keys = s.keys := rfl
@[simp] theorem State.storeBytes_keyFrame (s : State) (a : Nat) (bs : List Byte) :
    (s.storeBytes a bs).keyFrame = s.keyFrame := rfl
@[simp] theorem State.storeBytes_fault (s : State) (a : Nat) (bs : List Byte) : (s.storeBytes a bs).fault = s.fault := rfl
@[simp] theorem State.storeBytes_draws (s : State) (a : Nat) (bs : List Byte) : (s.storeBytes a bs).draws = s.draws := rfl
@[simp] theorem State.storeBytes_schedule (s : State) (a : Nat) (bs : List Byte) :
    (s.storeBytes a bs).schedule = s.schedule := rfl
@[simp] theorem State.storeBytes_getV (s : State) (a : Nat) (bs : List Byte) (y : Nibble) : (s.storeBytes a bs).getV y = s.getV y := rfl
@[simp] theorem State.storeBytes_getKey (s : State) (a : Nat) (bs : List Byte) (q : KeyIndex) : (s.storeBytes a bs).getKey q = s.getKey q := rfl

/-! ## setRegs -/

@[simp] theorem State.setRegs_i (s : State) (bs : List Byte) : (s.setRegs bs).i = s.i := rfl
@[simp] theorem State.setRegs_pc (s : State) (bs : List Byte) : (s.setRegs bs).pc = s.pc := rfl
@[simp] theorem State.setRegs_sp (s : State) (bs : List Byte) : (s.setRegs bs).sp = s.sp := rfl
@[simp] theorem State.setRegs_stack (s : State) (bs : List Byte) : (s.setRegs bs).stack = s.stack := rfl
@[simp] theorem State.setRegs_mem (s : State) (bs : List Byte) : (s.setRegs bs).mem = s.mem := rfl
@[simp] theorem State.setRegs_fb (s : State) (bs : List Byte) : (s.setRegs bs).fb = s.fb := rfl
@[simp] theorem State.setRegs_dirty (s : State) (bs : List Byte) : (s.setRegs bs).dirty = s.dirty := rfl
@[simp] theorem State.setRegs_dt (s : State) (bs : List Byte) : (s.setRegs bs).dt = s.dt := rfl
@[simp] theorem State.setRegs_st (s : State) (bs : List Byte) : (s.setRegs bs).st = s.st := rfl
@[simp] theorem State.setRegs_waiting (s : State) (bs : List Byte) : (s.setRegs bs).waiting = s.waiting := rfl
@[simp] theorem State.setRegs_waitReg (s : State) (bs : List Byte) : (s.setRegs bs).waitReg = s.waitReg := rfl
@[simp] theorem State.setRegs_keys (s : State) (bs : List Byte) : (s.setRegs bs).keys = s.keys := rfl
@[simp] theorem State.setRegs_keyFrame (s : State) (bs : List Byte) : (s.setRegs bs).keyFrame = s.keyFrame := rfl
@[simp] theorem State.setRegs_fault (s : State) (bs : List Byte) : (s.setRegs bs).fault = s.fault := rfl
@[simp] theorem State.setRegs_draws (s : State) (bs : List Byte) : (s.setRegs bs).draws = s.draws := rfl
@[simp] theorem State.setRegs_schedule (s : State) (bs : List Byte) : (s.setRegs bs).schedule = s.schedule := rfl
@[simp] theorem State.setRegs_readMem (s : State) (bs : List Byte) (a : Nat) : (s.setRegs bs).readMem a = s.readMem a := rfl
@[simp] theorem State.setRegs_getKey (s : State) (bs : List Byte) (q : KeyIndex) : (s.setRegs bs).getKey q = s.getKey q := rfl

/-! ## push -/

@[simp] theorem State.push_v (s : State) (w : StackWord) (h : s.sp.val < Params.stackCapacity) : (s.push w h).v = s.v := rfl
@[simp] theorem State.push_i (s : State) (w : StackWord) (h : s.sp.val < Params.stackCapacity) : (s.push w h).i = s.i := rfl
@[simp] theorem State.push_pc (s : State) (w : StackWord) (h : s.sp.val < Params.stackCapacity) : (s.push w h).pc = s.pc := rfl
@[simp] theorem State.push_sp (s : State) (w : StackWord) (h : s.sp.val < Params.stackCapacity) :
    (s.push w h).sp = ⟨s.sp.val + 1, Nat.succ_lt_succ h⟩ := rfl
@[simp] theorem State.push_stack (s : State) (w : StackWord) (h : s.sp.val < Params.stackCapacity) :
    (s.push w h).stack = s.stack.set s.sp.val w h := rfl
@[simp] theorem State.push_mem (s : State) (w : StackWord) (h : s.sp.val < Params.stackCapacity) :
    (s.push w h).mem = s.mem := rfl
@[simp] theorem State.push_fb (s : State) (w : StackWord) (h : s.sp.val < Params.stackCapacity) : (s.push w h).fb = s.fb := rfl
@[simp] theorem State.push_dirty (s : State) (w : StackWord) (h : s.sp.val < Params.stackCapacity) :
    (s.push w h).dirty = s.dirty := rfl
@[simp] theorem State.push_dt (s : State) (w : StackWord) (h : s.sp.val < Params.stackCapacity) : (s.push w h).dt = s.dt := rfl
@[simp] theorem State.push_st (s : State) (w : StackWord) (h : s.sp.val < Params.stackCapacity) : (s.push w h).st = s.st := rfl
@[simp] theorem State.push_waiting (s : State) (w : StackWord) (h : s.sp.val < Params.stackCapacity) :
    (s.push w h).waiting = s.waiting := rfl
@[simp] theorem State.push_waitReg (s : State) (w : StackWord) (h : s.sp.val < Params.stackCapacity) :
    (s.push w h).waitReg = s.waitReg := rfl
@[simp] theorem State.push_keys (s : State) (w : StackWord) (h : s.sp.val < Params.stackCapacity) :
    (s.push w h).keys = s.keys := rfl
@[simp] theorem State.push_keyFrame (s : State) (w : StackWord) (h : s.sp.val < Params.stackCapacity) :
    (s.push w h).keyFrame = s.keyFrame := rfl
@[simp] theorem State.push_fault (s : State) (w : StackWord) (h : s.sp.val < Params.stackCapacity) :
    (s.push w h).fault = s.fault := rfl
@[simp] theorem State.push_draws (s : State) (w : StackWord) (h : s.sp.val < Params.stackCapacity) :
    (s.push w h).draws = s.draws := rfl
@[simp] theorem State.push_schedule (s : State) (w : StackWord) (h : s.sp.val < Params.stackCapacity) :
    (s.push w h).schedule = s.schedule := rfl
@[simp] theorem State.push_getV (s : State) (w : StackWord) (h : s.sp.val < Params.stackCapacity) (y : Nibble) : (s.push w h).getV y = s.getV y := rfl
@[simp] theorem State.push_readMem (s : State) (w : StackWord) (h : s.sp.val < Params.stackCapacity) (a : Nat) : (s.push w h).readMem a = s.readMem a := rfl
@[simp] theorem State.push_getKey (s : State) (w : StackWord) (h : s.sp.val < Params.stackCapacity) (q : KeyIndex) : (s.push w h).getKey q = s.getKey q := rfl

/-! ## popToPc -/

@[simp] theorem State.popToPc_v (s : State) (h : 0 < s.sp.val) : (s.popToPc h).v = s.v := rfl
@[simp] theorem State.popToPc_i (s : State) (h : 0 < s.sp.val) : (s.popToPc h).i = s.i := rfl
@[simp] theorem State.popToPc_pc (s : State) (h : 0 < s.sp.val) : (s.popToPc h).pc = s.stack[s.sp.val - 1]'(isHeld h) :=
  BitVec.setWidth_eq _
@[simp] theorem State.popToPc_sp (s : State) (h : 0 < s.sp.val) :
    (s.popToPc h).sp = ⟨s.sp.val - 1, Nat.lt_of_le_of_lt (Nat.sub_le _ _) s.sp.isLt⟩ := rfl
@[simp] theorem State.popToPc_stack (s : State) (h : 0 < s.sp.val) : (s.popToPc h).stack = s.stack := rfl
@[simp] theorem State.popToPc_mem (s : State) (h : 0 < s.sp.val) : (s.popToPc h).mem = s.mem := rfl
@[simp] theorem State.popToPc_fb (s : State) (h : 0 < s.sp.val) : (s.popToPc h).fb = s.fb := rfl
@[simp] theorem State.popToPc_dirty (s : State) (h : 0 < s.sp.val) : (s.popToPc h).dirty = s.dirty := rfl
@[simp] theorem State.popToPc_dt (s : State) (h : 0 < s.sp.val) : (s.popToPc h).dt = s.dt := rfl
@[simp] theorem State.popToPc_st (s : State) (h : 0 < s.sp.val) : (s.popToPc h).st = s.st := rfl
@[simp] theorem State.popToPc_waiting (s : State) (h : 0 < s.sp.val) : (s.popToPc h).waiting = s.waiting := rfl
@[simp] theorem State.popToPc_waitReg (s : State) (h : 0 < s.sp.val) : (s.popToPc h).waitReg = s.waitReg := rfl
@[simp] theorem State.popToPc_keys (s : State) (h : 0 < s.sp.val) : (s.popToPc h).keys = s.keys := rfl
@[simp] theorem State.popToPc_keyFrame (s : State) (h : 0 < s.sp.val) : (s.popToPc h).keyFrame = s.keyFrame := rfl
@[simp] theorem State.popToPc_fault (s : State) (h : 0 < s.sp.val) : (s.popToPc h).fault = s.fault := rfl
@[simp] theorem State.popToPc_draws (s : State) (h : 0 < s.sp.val) : (s.popToPc h).draws = s.draws := rfl
@[simp] theorem State.popToPc_schedule (s : State) (h : 0 < s.sp.val) : (s.popToPc h).schedule = s.schedule := rfl
@[simp] theorem State.popToPc_getV (s : State) (h : 0 < s.sp.val) (y : Nibble) : (s.popToPc h).getV y = s.getV y := rfl
@[simp] theorem State.popToPc_readMem (s : State) (h : 0 < s.sp.val) (a : Nat) : (s.popToPc h).readMem a = s.readMem a := rfl
@[simp] theorem State.popToPc_getKey (s : State) (h : 0 < s.sp.val) (q : KeyIndex) : (s.popToPc h).getKey q = s.getKey q := rfl

/-! ## latch -/

@[simp] theorem State.latch_v (s : State) (e : Error) : (s.latch e).v = s.v := rfl
@[simp] theorem State.latch_i (s : State) (e : Error) : (s.latch e).i = s.i := rfl
@[simp] theorem State.latch_pc (s : State) (e : Error) : (s.latch e).pc = s.pc := rfl
@[simp] theorem State.latch_sp (s : State) (e : Error) : (s.latch e).sp = s.sp := rfl
@[simp] theorem State.latch_stack (s : State) (e : Error) : (s.latch e).stack = s.stack := rfl
@[simp] theorem State.latch_mem (s : State) (e : Error) : (s.latch e).mem = s.mem := rfl
@[simp] theorem State.latch_fb (s : State) (e : Error) : (s.latch e).fb = s.fb := rfl
@[simp] theorem State.latch_dirty (s : State) (e : Error) : (s.latch e).dirty = s.dirty := rfl
@[simp] theorem State.latch_dt (s : State) (e : Error) : (s.latch e).dt = s.dt := rfl
@[simp] theorem State.latch_st (s : State) (e : Error) : (s.latch e).st = s.st := rfl
@[simp] theorem State.latch_waiting (s : State) (e : Error) : (s.latch e).waiting = s.waiting := rfl
@[simp] theorem State.latch_waitReg (s : State) (e : Error) : (s.latch e).waitReg = s.waitReg := rfl
@[simp] theorem State.latch_keys (s : State) (e : Error) : (s.latch e).keys = s.keys := rfl
@[simp] theorem State.latch_keyFrame (s : State) (e : Error) : (s.latch e).keyFrame = s.keyFrame := rfl
@[simp] theorem State.latch_fault (s : State) (e : Error) : (s.latch e).fault = some e := rfl
@[simp] theorem State.latch_draws (s : State) (e : Error) : (s.latch e).draws = s.draws := rfl
@[simp] theorem State.latch_schedule (s : State) (e : Error) : (s.latch e).schedule = s.schedule := rfl
@[simp] theorem State.latch_getV (s : State) (e : Error) (y : Nibble) : (s.latch e).getV y = s.getV y := rfl
@[simp] theorem State.latch_readMem (s : State) (e : Error) (a : Nat) : (s.latch e).readMem a = s.readMem a := rfl
@[simp] theorem State.latch_getKey (s : State) (e : Error) (q : KeyIndex) : (s.latch e).getKey q = s.getKey q := rfl

/-! ## setKey -/

@[simp] theorem State.setKey_v (s : State) (k : KeyIndex) (q : KeyState) : (s.setKey k q).v = s.v := rfl
@[simp] theorem State.setKey_i (s : State) (k : KeyIndex) (q : KeyState) : (s.setKey k q).i = s.i := rfl
@[simp] theorem State.setKey_pc (s : State) (k : KeyIndex) (q : KeyState) : (s.setKey k q).pc = s.pc := rfl
@[simp] theorem State.setKey_sp (s : State) (k : KeyIndex) (q : KeyState) : (s.setKey k q).sp = s.sp := rfl
@[simp] theorem State.setKey_stack (s : State) (k : KeyIndex) (q : KeyState) : (s.setKey k q).stack = s.stack := rfl
@[simp] theorem State.setKey_mem (s : State) (k : KeyIndex) (q : KeyState) : (s.setKey k q).mem = s.mem := rfl
@[simp] theorem State.setKey_fb (s : State) (k : KeyIndex) (q : KeyState) : (s.setKey k q).fb = s.fb := rfl
@[simp] theorem State.setKey_dirty (s : State) (k : KeyIndex) (q : KeyState) : (s.setKey k q).dirty = s.dirty := rfl
@[simp] theorem State.setKey_dt (s : State) (k : KeyIndex) (q : KeyState) : (s.setKey k q).dt = s.dt := rfl
@[simp] theorem State.setKey_st (s : State) (k : KeyIndex) (q : KeyState) : (s.setKey k q).st = s.st := rfl
@[simp] theorem State.setKey_waiting (s : State) (k : KeyIndex) (q : KeyState) : (s.setKey k q).waiting = s.waiting := rfl
@[simp] theorem State.setKey_waitReg (s : State) (k : KeyIndex) (q : KeyState) : (s.setKey k q).waitReg = s.waitReg := rfl
@[simp] theorem State.setKey_keys (s : State) (k : KeyIndex) (q : KeyState) :
    (s.setKey k q).keys = s.keys.set k.val q k.isLt := rfl
@[simp] theorem State.setKey_keyFrame (s : State) (k : KeyIndex) (q : KeyState) : (s.setKey k q).keyFrame = s.keyFrame := rfl
@[simp] theorem State.setKey_fault (s : State) (k : KeyIndex) (q : KeyState) : (s.setKey k q).fault = s.fault := rfl
@[simp] theorem State.setKey_draws (s : State) (k : KeyIndex) (q : KeyState) : (s.setKey k q).draws = s.draws := rfl
@[simp] theorem State.setKey_schedule (s : State) (k : KeyIndex) (q : KeyState) : (s.setKey k q).schedule = s.schedule := rfl
@[simp] theorem State.setKey_getV (s : State) (k : KeyIndex) (q : KeyState) (y : Nibble) : (s.setKey k q).getV y = s.getV y := rfl
@[simp] theorem State.setKey_readMem (s : State) (k : KeyIndex) (q : KeyState) (a : Nat) : (s.setKey k q).readMem a = s.readMem a := rfl

/-! ## nextDraw -/

@[simp] theorem State.nextDraw_v (s : State) : (s.nextDraw).v = s.v := rfl
@[simp] theorem State.nextDraw_i (s : State) : (s.nextDraw).i = s.i := rfl
@[simp] theorem State.nextDraw_pc (s : State) : (s.nextDraw).pc = s.pc := rfl
@[simp] theorem State.nextDraw_sp (s : State) : (s.nextDraw).sp = s.sp := rfl
@[simp] theorem State.nextDraw_stack (s : State) : (s.nextDraw).stack = s.stack := rfl
@[simp] theorem State.nextDraw_mem (s : State) : (s.nextDraw).mem = s.mem := rfl
@[simp] theorem State.nextDraw_fb (s : State) : (s.nextDraw).fb = s.fb := rfl
@[simp] theorem State.nextDraw_dirty (s : State) : (s.nextDraw).dirty = s.dirty := rfl
@[simp] theorem State.nextDraw_dt (s : State) : (s.nextDraw).dt = s.dt := rfl
@[simp] theorem State.nextDraw_st (s : State) : (s.nextDraw).st = s.st := rfl
@[simp] theorem State.nextDraw_waiting (s : State) : (s.nextDraw).waiting = s.waiting := rfl
@[simp] theorem State.nextDraw_waitReg (s : State) : (s.nextDraw).waitReg = s.waitReg := rfl
@[simp] theorem State.nextDraw_keys (s : State) : (s.nextDraw).keys = s.keys := rfl
@[simp] theorem State.nextDraw_keyFrame (s : State) : (s.nextDraw).keyFrame = s.keyFrame := rfl
@[simp] theorem State.nextDraw_fault (s : State) : (s.nextDraw).fault = s.fault := rfl
@[simp] theorem State.nextDraw_draws (s : State) : (s.nextDraw).draws = s.draws + 1 := rfl
@[simp] theorem State.nextDraw_schedule (s : State) : (s.nextDraw).schedule = s.schedule := rfl
@[simp] theorem State.nextDraw_getV (s : State) (y : Nibble) : (s.nextDraw).getV y = s.getV y := rfl
@[simp] theorem State.nextDraw_readMem (s : State) (a : Nat) : (s.nextDraw).readMem a = s.readMem a := rfl
@[simp] theorem State.nextDraw_getKey (s : State) (q : KeyIndex) : (s.nextDraw).getKey q = s.getKey q := rfl

/-! ## setFlag -/

@[simp] theorem State.setFlag_i (s : State) (b : Bool) : (s.setFlag b).i = s.i := rfl
@[simp] theorem State.setFlag_pc (s : State) (b : Bool) : (s.setFlag b).pc = s.pc := rfl
@[simp] theorem State.setFlag_sp (s : State) (b : Bool) : (s.setFlag b).sp = s.sp := rfl
@[simp] theorem State.setFlag_stack (s : State) (b : Bool) : (s.setFlag b).stack = s.stack := rfl
@[simp] theorem State.setFlag_mem (s : State) (b : Bool) : (s.setFlag b).mem = s.mem := rfl
@[simp] theorem State.setFlag_fb (s : State) (b : Bool) : (s.setFlag b).fb = s.fb := rfl
@[simp] theorem State.setFlag_dirty (s : State) (b : Bool) : (s.setFlag b).dirty = s.dirty := rfl
@[simp] theorem State.setFlag_dt (s : State) (b : Bool) : (s.setFlag b).dt = s.dt := rfl
@[simp] theorem State.setFlag_st (s : State) (b : Bool) : (s.setFlag b).st = s.st := rfl
@[simp] theorem State.setFlag_waiting (s : State) (b : Bool) : (s.setFlag b).waiting = s.waiting := rfl
@[simp] theorem State.setFlag_waitReg (s : State) (b : Bool) : (s.setFlag b).waitReg = s.waitReg := rfl
@[simp] theorem State.setFlag_keys (s : State) (b : Bool) : (s.setFlag b).keys = s.keys := rfl
@[simp] theorem State.setFlag_keyFrame (s : State) (b : Bool) : (s.setFlag b).keyFrame = s.keyFrame := rfl
@[simp] theorem State.setFlag_fault (s : State) (b : Bool) : (s.setFlag b).fault = s.fault := rfl
@[simp] theorem State.setFlag_draws (s : State) (b : Bool) : (s.setFlag b).draws = s.draws := rfl
@[simp] theorem State.setFlag_schedule (s : State) (b : Bool) : (s.setFlag b).schedule = s.schedule := rfl
@[simp] theorem State.setFlag_readMem (s : State) (b : Bool) (a : Nat) : (s.setFlag b).readMem a = s.readMem a := rfl
@[simp] theorem State.setFlag_getKey (s : State) (b : Bool) (q : KeyIndex) : (s.setFlag b).getKey q = s.getKey q := rfl

/-! ## putCanvas -/

@[simp] theorem State.putCanvas_i (s : State) (c : Canvas) : (s.putCanvas c).i = s.i := rfl
@[simp] theorem State.putCanvas_pc (s : State) (c : Canvas) : (s.putCanvas c).pc = s.pc := rfl
@[simp] theorem State.putCanvas_sp (s : State) (c : Canvas) : (s.putCanvas c).sp = s.sp := rfl
@[simp] theorem State.putCanvas_stack (s : State) (c : Canvas) : (s.putCanvas c).stack = s.stack := rfl
@[simp] theorem State.putCanvas_mem (s : State) (c : Canvas) : (s.putCanvas c).mem = s.mem := rfl
@[simp] theorem State.putCanvas_fb (s : State) (c : Canvas) : (s.putCanvas c).fb = c.fb := rfl
@[simp] theorem State.putCanvas_dirty (s : State) (c : Canvas) : (s.putCanvas c).dirty = c.dirty := rfl
@[simp] theorem State.putCanvas_dt (s : State) (c : Canvas) : (s.putCanvas c).dt = s.dt := rfl
@[simp] theorem State.putCanvas_st (s : State) (c : Canvas) : (s.putCanvas c).st = s.st := rfl
@[simp] theorem State.putCanvas_waiting (s : State) (c : Canvas) : (s.putCanvas c).waiting = s.waiting := rfl
@[simp] theorem State.putCanvas_waitReg (s : State) (c : Canvas) : (s.putCanvas c).waitReg = s.waitReg := rfl
@[simp] theorem State.putCanvas_keys (s : State) (c : Canvas) : (s.putCanvas c).keys = s.keys := rfl
@[simp] theorem State.putCanvas_keyFrame (s : State) (c : Canvas) : (s.putCanvas c).keyFrame = s.keyFrame := rfl
@[simp] theorem State.putCanvas_fault (s : State) (c : Canvas) : (s.putCanvas c).fault = s.fault := rfl
@[simp] theorem State.putCanvas_draws (s : State) (c : Canvas) : (s.putCanvas c).draws = s.draws := rfl
@[simp] theorem State.putCanvas_schedule (s : State) (c : Canvas) : (s.putCanvas c).schedule = s.schedule := rfl
@[simp] theorem State.putCanvas_readMem (s : State) (c : Canvas) (a : Nat) : (s.putCanvas c).readMem a = s.readMem a := rfl
@[simp] theorem State.putCanvas_getKey (s : State) (c : Canvas) (q : KeyIndex) : (s.putCanvas c).getKey q = s.getKey q := rfl

/-! ## countTimers -/

@[simp] theorem State.countTimers_v (s : State) : (s.countTimers).v = s.v := rfl
@[simp] theorem State.countTimers_i (s : State) : (s.countTimers).i = s.i := rfl
@[simp] theorem State.countTimers_pc (s : State) : (s.countTimers).pc = s.pc := rfl
@[simp] theorem State.countTimers_sp (s : State) : (s.countTimers).sp = s.sp := rfl
@[simp] theorem State.countTimers_stack (s : State) : (s.countTimers).stack = s.stack := rfl
@[simp] theorem State.countTimers_mem (s : State) : (s.countTimers).mem = s.mem := rfl
@[simp] theorem State.countTimers_fb (s : State) : (s.countTimers).fb = s.fb := rfl
@[simp] theorem State.countTimers_dirty (s : State) : (s.countTimers).dirty = s.dirty := rfl
@[simp] theorem State.countTimers_dt (s : State) : (s.countTimers).dt = countDown s.dt := rfl
@[simp] theorem State.countTimers_st (s : State) : (s.countTimers).st = countDown s.st := rfl
@[simp] theorem State.countTimers_waiting (s : State) : (s.countTimers).waiting = s.waiting := rfl
@[simp] theorem State.countTimers_waitReg (s : State) : (s.countTimers).waitReg = s.waitReg := rfl
@[simp] theorem State.countTimers_keys (s : State) : (s.countTimers).keys = s.keys := rfl
@[simp] theorem State.countTimers_keyFrame (s : State) : (s.countTimers).keyFrame = s.keyFrame := rfl
@[simp] theorem State.countTimers_fault (s : State) : (s.countTimers).fault = s.fault := rfl
@[simp] theorem State.countTimers_draws (s : State) : (s.countTimers).draws = s.draws := rfl
@[simp] theorem State.countTimers_schedule (s : State) : (s.countTimers).schedule = s.schedule := rfl
@[simp] theorem State.countTimers_getV (s : State) (y : Nibble) : (s.countTimers).getV y = s.getV y := rfl
@[simp] theorem State.countTimers_readMem (s : State) (a : Nat) : (s.countTimers).readMem a = s.readMem a := rfl
@[simp] theorem State.countTimers_getKey (s : State) (q : KeyIndex) : (s.countTimers).getKey q = s.getKey q := rfl

/-! ## moveKey -/

@[simp] theorem State.moveKey_v (s : State) (k : KeyIndex) (p : KeyMove) : (s.moveKey k p).v = s.v := rfl
@[simp] theorem State.moveKey_i (s : State) (k : KeyIndex) (p : KeyMove) : (s.moveKey k p).i = s.i := rfl
@[simp] theorem State.moveKey_pc (s : State) (k : KeyIndex) (p : KeyMove) : (s.moveKey k p).pc = s.pc := rfl
@[simp] theorem State.moveKey_sp (s : State) (k : KeyIndex) (p : KeyMove) : (s.moveKey k p).sp = s.sp := rfl
@[simp] theorem State.moveKey_stack (s : State) (k : KeyIndex) (p : KeyMove) : (s.moveKey k p).stack = s.stack := rfl
@[simp] theorem State.moveKey_mem (s : State) (k : KeyIndex) (p : KeyMove) : (s.moveKey k p).mem = s.mem := rfl
@[simp] theorem State.moveKey_fb (s : State) (k : KeyIndex) (p : KeyMove) : (s.moveKey k p).fb = s.fb := rfl
@[simp] theorem State.moveKey_dirty (s : State) (k : KeyIndex) (p : KeyMove) : (s.moveKey k p).dirty = s.dirty := rfl
@[simp] theorem State.moveKey_dt (s : State) (k : KeyIndex) (p : KeyMove) : (s.moveKey k p).dt = s.dt := rfl
@[simp] theorem State.moveKey_st (s : State) (k : KeyIndex) (p : KeyMove) : (s.moveKey k p).st = s.st := rfl
@[simp] theorem State.moveKey_waiting (s : State) (k : KeyIndex) (p : KeyMove) : (s.moveKey k p).waiting = s.waiting := rfl
@[simp] theorem State.moveKey_waitReg (s : State) (k : KeyIndex) (p : KeyMove) : (s.moveKey k p).waitReg = s.waitReg := rfl
@[simp] theorem State.moveKey_keys (s : State) (k : KeyIndex) (p : KeyMove) :
    (s.moveKey k p).keys = (s.setKey k ((s.getKey k).after p)).keys := rfl
@[simp] theorem State.moveKey_keyFrame (s : State) (k : KeyIndex) (p : KeyMove) :
    (s.moveKey k p).keyFrame = (s.keyFrame || isPressEdge (s.getKey k) p) := rfl
@[simp] theorem State.moveKey_fault (s : State) (k : KeyIndex) (p : KeyMove) : (s.moveKey k p).fault = s.fault := rfl
@[simp] theorem State.moveKey_draws (s : State) (k : KeyIndex) (p : KeyMove) : (s.moveKey k p).draws = s.draws := rfl
@[simp] theorem State.moveKey_schedule (s : State) (k : KeyIndex) (p : KeyMove) : (s.moveKey k p).schedule = s.schedule := rfl
@[simp] theorem State.moveKey_getV (s : State) (k : KeyIndex) (p : KeyMove) (y : Nibble) : (s.moveKey k p).getV y = s.getV y := rfl
@[simp] theorem State.moveKey_readMem (s : State) (k : KeyIndex) (p : KeyMove) (a : Nat) : (s.moveKey k p).readMem a = s.readMem a := rfl

/-! ## clearKeyFrame -/

@[simp] theorem State.clearKeyFrame_v (s : State) : (s.clearKeyFrame).v = s.v := rfl
@[simp] theorem State.clearKeyFrame_i (s : State) : (s.clearKeyFrame).i = s.i := rfl
@[simp] theorem State.clearKeyFrame_pc (s : State) : (s.clearKeyFrame).pc = s.pc := rfl
@[simp] theorem State.clearKeyFrame_sp (s : State) : (s.clearKeyFrame).sp = s.sp := rfl
@[simp] theorem State.clearKeyFrame_stack (s : State) : (s.clearKeyFrame).stack = s.stack := rfl
@[simp] theorem State.clearKeyFrame_mem (s : State) : (s.clearKeyFrame).mem = s.mem := rfl
@[simp] theorem State.clearKeyFrame_fb (s : State) : (s.clearKeyFrame).fb = s.fb := rfl
@[simp] theorem State.clearKeyFrame_dirty (s : State) : (s.clearKeyFrame).dirty = s.dirty := rfl
@[simp] theorem State.clearKeyFrame_dt (s : State) : (s.clearKeyFrame).dt = s.dt := rfl
@[simp] theorem State.clearKeyFrame_st (s : State) : (s.clearKeyFrame).st = s.st := rfl
@[simp] theorem State.clearKeyFrame_waiting (s : State) : (s.clearKeyFrame).waiting = s.waiting := rfl
@[simp] theorem State.clearKeyFrame_waitReg (s : State) : (s.clearKeyFrame).waitReg = s.waitReg := rfl
@[simp] theorem State.clearKeyFrame_keys (s : State) : (s.clearKeyFrame).keys = s.keys := rfl
@[simp] theorem State.clearKeyFrame_keyFrame (s : State) : (s.clearKeyFrame).keyFrame = false := rfl
@[simp] theorem State.clearKeyFrame_fault (s : State) : (s.clearKeyFrame).fault = s.fault := rfl
@[simp] theorem State.clearKeyFrame_draws (s : State) : (s.clearKeyFrame).draws = s.draws := rfl
@[simp] theorem State.clearKeyFrame_schedule (s : State) : (s.clearKeyFrame).schedule = s.schedule := rfl
@[simp] theorem State.clearKeyFrame_getV (s : State) (y : Nibble) : (s.clearKeyFrame).getV y = s.getV y := rfl
@[simp] theorem State.clearKeyFrame_readMem (s : State) (a : Nat) : (s.clearKeyFrame).readMem a = s.readMem a := rfl
@[simp] theorem State.clearKeyFrame_getKey (s : State) (q : KeyIndex) : (s.clearKeyFrame).getKey q = s.getKey q := rfl

/-! ## clearDirty -/

@[simp] theorem State.clearDirty_v (s : State) : (s.clearDirty).v = s.v := rfl
@[simp] theorem State.clearDirty_i (s : State) : (s.clearDirty).i = s.i := rfl
@[simp] theorem State.clearDirty_pc (s : State) : (s.clearDirty).pc = s.pc := rfl
@[simp] theorem State.clearDirty_sp (s : State) : (s.clearDirty).sp = s.sp := rfl
@[simp] theorem State.clearDirty_stack (s : State) : (s.clearDirty).stack = s.stack := rfl
@[simp] theorem State.clearDirty_mem (s : State) : (s.clearDirty).mem = s.mem := rfl
@[simp] theorem State.clearDirty_fb (s : State) : (s.clearDirty).fb = s.fb := rfl
@[simp] theorem State.clearDirty_dirty (s : State) : (s.clearDirty).dirty = false := rfl
@[simp] theorem State.clearDirty_dt (s : State) : (s.clearDirty).dt = s.dt := rfl
@[simp] theorem State.clearDirty_st (s : State) : (s.clearDirty).st = s.st := rfl
@[simp] theorem State.clearDirty_waiting (s : State) : (s.clearDirty).waiting = s.waiting := rfl
@[simp] theorem State.clearDirty_waitReg (s : State) : (s.clearDirty).waitReg = s.waitReg := rfl
@[simp] theorem State.clearDirty_keys (s : State) : (s.clearDirty).keys = s.keys := rfl
@[simp] theorem State.clearDirty_keyFrame (s : State) : (s.clearDirty).keyFrame = s.keyFrame := rfl
@[simp] theorem State.clearDirty_fault (s : State) : (s.clearDirty).fault = s.fault := rfl
@[simp] theorem State.clearDirty_draws (s : State) : (s.clearDirty).draws = s.draws := rfl
@[simp] theorem State.clearDirty_schedule (s : State) : (s.clearDirty).schedule = s.schedule := rfl
@[simp] theorem State.clearDirty_getV (s : State) (y : Nibble) : (s.clearDirty).getV y = s.getV y := rfl
@[simp] theorem State.clearDirty_readMem (s : State) (a : Nat) : (s.clearDirty).readMem a = s.readMem a := rfl
@[simp] theorem State.clearDirty_getKey (s : State) (q : KeyIndex) : (s.clearDirty).getKey q = s.getKey q := rfl

/-! ## release -/

@[simp] theorem State.release_i (s : State) (k : KeyIndex) : (s.release k).i = s.i := rfl
@[simp] theorem State.release_pc (s : State) (k : KeyIndex) : (s.release k).pc = s.pc + 2 := rfl
@[simp] theorem State.release_sp (s : State) (k : KeyIndex) : (s.release k).sp = s.sp := rfl
@[simp] theorem State.release_stack (s : State) (k : KeyIndex) : (s.release k).stack = s.stack := rfl
@[simp] theorem State.release_mem (s : State) (k : KeyIndex) : (s.release k).mem = s.mem := rfl
@[simp] theorem State.release_fb (s : State) (k : KeyIndex) : (s.release k).fb = s.fb := rfl
@[simp] theorem State.release_dirty (s : State) (k : KeyIndex) : (s.release k).dirty = s.dirty := rfl
@[simp] theorem State.release_dt (s : State) (k : KeyIndex) : (s.release k).dt = s.dt := rfl
@[simp] theorem State.release_st (s : State) (k : KeyIndex) : (s.release k).st = s.st := rfl
@[simp] theorem State.release_waiting (s : State) (k : KeyIndex) : (s.release k).waiting = false := rfl
@[simp] theorem State.release_waitReg (s : State) (k : KeyIndex) : (s.release k).waitReg = s.waitReg := rfl
@[simp] theorem State.release_keys (s : State) (k : KeyIndex) : (s.release k).keys = s.keys := rfl
@[simp] theorem State.release_keyFrame (s : State) (k : KeyIndex) : (s.release k).keyFrame = s.keyFrame := rfl
@[simp] theorem State.release_fault (s : State) (k : KeyIndex) : (s.release k).fault = s.fault := rfl
@[simp] theorem State.release_draws (s : State) (k : KeyIndex) : (s.release k).draws = s.draws := rfl
@[simp] theorem State.release_schedule (s : State) (k : KeyIndex) : (s.release k).schedule = s.schedule := rfl
@[simp] theorem State.release_readMem (s : State) (k : KeyIndex) (a : Nat) : (s.release k).readMem a = s.readMem a := rfl
@[simp] theorem State.release_getKey (s : State) (k : KeyIndex) (q : KeyIndex) : (s.release k).getKey q = s.getKey q := rfl

/-! ## advance -/

@[simp] theorem State.advance_v (s : State) (a : Advance) : (s.advance a).v = s.v := by cases a <;> rfl
@[simp] theorem State.advance_i (s : State) (a : Advance) : (s.advance a).i = s.i := by cases a <;> rfl
@[simp] theorem State.advance_sp (s : State) (a : Advance) : (s.advance a).sp = s.sp := by cases a <;> rfl
@[simp] theorem State.advance_stack (s : State) (a : Advance) : (s.advance a).stack = s.stack := by cases a <;> rfl
@[simp] theorem State.advance_mem (s : State) (a : Advance) : (s.advance a).mem = s.mem := by cases a <;> rfl
@[simp] theorem State.advance_fb (s : State) (a : Advance) : (s.advance a).fb = s.fb := by cases a <;> rfl
@[simp] theorem State.advance_dirty (s : State) (a : Advance) : (s.advance a).dirty = s.dirty := by cases a <;> rfl
@[simp] theorem State.advance_dt (s : State) (a : Advance) : (s.advance a).dt = s.dt := by cases a <;> rfl
@[simp] theorem State.advance_st (s : State) (a : Advance) : (s.advance a).st = s.st := by cases a <;> rfl
@[simp] theorem State.advance_waiting (s : State) (a : Advance) : (s.advance a).waiting = s.waiting := by cases a <;> rfl
@[simp] theorem State.advance_waitReg (s : State) (a : Advance) : (s.advance a).waitReg = s.waitReg := by cases a <;> rfl
@[simp] theorem State.advance_keys (s : State) (a : Advance) : (s.advance a).keys = s.keys := by cases a <;> rfl
@[simp] theorem State.advance_keyFrame (s : State) (a : Advance) : (s.advance a).keyFrame = s.keyFrame := by cases a <;> rfl
@[simp] theorem State.advance_fault (s : State) (a : Advance) : (s.advance a).fault = s.fault := by cases a <;> rfl
@[simp] theorem State.advance_draws (s : State) (a : Advance) : (s.advance a).draws = s.draws := by cases a <;> rfl
@[simp] theorem State.advance_schedule (s : State) (a : Advance) : (s.advance a).schedule = s.schedule := by cases a <;> rfl
@[simp] theorem State.advance_pc_single (s : State) : (s.advance .single).pc = s.pc + 2 := rfl
@[simp] theorem State.advance_pc_skip (s : State) : (s.advance .skip).pc = s.pc + 4 := rfl
@[simp] theorem State.advance_none (s : State) : s.advance .none = s := rfl
@[simp] theorem State.advance_pc_skipIf (s : State) (c : Bool) :
    (s.advance (skipIf c)).pc = if c then s.pc + 4 else s.pc + 2 := by cases c <;> rfl
@[simp] theorem State.advance_getV (s : State) (a : Advance) (y : Nibble) : (s.advance a).getV y = s.getV y := by cases a <;> rfl
@[simp] theorem State.advance_readMem (s : State) (a : Advance) (b : Nat) : (s.advance a).readMem b = s.readMem b := by
  cases a <;> rfl
@[simp] theorem State.advance_getKey (s : State) (a : Advance) (k : KeyIndex) : (s.advance a).getKey k = s.getKey k := by
  cases a <;> rfl

/-! ## Widths -/

theorem State.pc_lt (s : State) : s.pc.toNat < 65536 := s.pc.isLt
theorem State.i_lt (s : State) : s.i.toNat < 65536 := s.i.isLt
theorem State.getV_lt (s : State) (x : Nibble) : (s.getV x).toNat < 256 := (s.getV x).isLt
theorem State.sp_le (s : State) : s.sp.val ≤ 16 := Nat.le_of_lt_succ s.sp.isLt

/-- An immediate is a register value as it stands, the two having one width. -/
@[simp] theorem immOperand_eq (kk : Byte) : immOperand kk = kk := BitVec.setWidth_eq kk

/-! ## Register reads after register writes -/

/-- A register write shows in the register written and nowhere else. -/
@[simp] theorem State.getV_setV (s : State) (x y : Nibble) (b : VByte) :
    (s.setV x b).getV y = if y = x then b else s.getV y := by
  simp [State.getV, State.setV, Vector.getElem_set, BitVec.toNat_inj, eq_comm]

/-- A flag write shows in VF and nowhere else. -/
@[simp] theorem State.getV_setFlag (s : State) (b : Bool) (y : Nibble) :
    (s.setFlag b).getV y = if y = regVF then flagByte b else s.getV y := by
  simp [State.setFlag]

/-- A canvas put back shows its collision in VF and leaves the other registers. -/
@[simp] theorem State.getV_putCanvas (s : State) (c : Canvas) (y : Nibble) :
    (s.putCanvas c).getV y = if y = regVF then flagByte c.collision else s.getV y := by
  simp [State.putCanvas]; rfl

/-- A block write shows in the registers of the block and leaves those past it. -/
@[simp] theorem State.getV_setRegs (s : State) (bs : List Byte) (y : Nibble) :
    (s.setRegs bs).getV y = bs.getD y.toNat (s.getV y) := by
  simp [State.getV, State.setRegs]
  cases bs[y.toNat]? <;> simp

/-- A release shows in the waiting register and nowhere else. -/
@[simp] theorem State.getV_release (s : State) (k : KeyIndex) (y : Nibble) :
    (s.release k).getV y = if y = s.waitReg then BitVec.ofNat Params.vWidth k.val else s.getV y := by
  simp [State.release]; rfl

/-- A key write shows in the key written and nowhere else. -/
@[simp] theorem State.getKey_setKey (s : State) (k l : KeyIndex) (q : KeyState) :
    (s.setKey k q).getKey l = if l = k then q else s.getKey l := by
  simp [State.getKey, State.setKey, Vector.getElem_set, Fin.val_inj, eq_comm]

/-- What a result-and-flag write does to a register: VF gets the flag even when it is the destination (10_state.md R15). -/
@[simp] theorem State.getV_resultAndFlag (s : State) (x y : Nibble) (r : VByte) (f : Bool) :
    (s.resultAndFlag x r f).getV y = if y = regVF then flagByte f else if y = x then r else s.getV y := by
  simp [State.resultAndFlag]

@[simp] theorem State.resultAndFlag_pc (s : State) (x : Nibble) (r : VByte) (f : Bool) :
    (s.resultAndFlag x r f).pc = s.pc + 2 := rfl

@[simp] theorem State.resultAndFlag_i (s : State) (x : Nibble) (r : VByte) (f : Bool) :
    (s.resultAndFlag x r f).i = s.i := rfl
@[simp] theorem State.resultAndFlag_sp (s : State) (x : Nibble) (r : VByte) (f : Bool) :
    (s.resultAndFlag x r f).sp = s.sp := rfl
@[simp] theorem State.resultAndFlag_stack (s : State) (x : Nibble) (r : VByte) (f : Bool) :
    (s.resultAndFlag x r f).stack = s.stack := rfl
@[simp] theorem State.resultAndFlag_mem (s : State) (x : Nibble) (r : VByte) (f : Bool) :
    (s.resultAndFlag x r f).mem = s.mem := rfl
@[simp] theorem State.resultAndFlag_fb (s : State) (x : Nibble) (r : VByte) (f : Bool) :
    (s.resultAndFlag x r f).fb = s.fb := rfl
@[simp] theorem State.resultAndFlag_dirty (s : State) (x : Nibble) (r : VByte) (f : Bool) :
    (s.resultAndFlag x r f).dirty = s.dirty := rfl
@[simp] theorem State.resultAndFlag_dt (s : State) (x : Nibble) (r : VByte) (f : Bool) :
    (s.resultAndFlag x r f).dt = s.dt := rfl
@[simp] theorem State.resultAndFlag_st (s : State) (x : Nibble) (r : VByte) (f : Bool) :
    (s.resultAndFlag x r f).st = s.st := rfl
@[simp] theorem State.resultAndFlag_waiting (s : State) (x : Nibble) (r : VByte) (f : Bool) :
    (s.resultAndFlag x r f).waiting = s.waiting := rfl
@[simp] theorem State.resultAndFlag_waitReg (s : State) (x : Nibble) (r : VByte) (f : Bool) :
    (s.resultAndFlag x r f).waitReg = s.waitReg := rfl
@[simp] theorem State.resultAndFlag_keys (s : State) (x : Nibble) (r : VByte) (f : Bool) :
    (s.resultAndFlag x r f).keys = s.keys := rfl
@[simp] theorem State.resultAndFlag_keyFrame (s : State) (x : Nibble) (r : VByte) (f : Bool) :
    (s.resultAndFlag x r f).keyFrame = s.keyFrame := rfl
@[simp] theorem State.resultAndFlag_fault (s : State) (x : Nibble) (r : VByte) (f : Bool) :
    (s.resultAndFlag x r f).fault = s.fault := rfl
@[simp] theorem State.resultAndFlag_draws (s : State) (x : Nibble) (r : VByte) (f : Bool) :
    (s.resultAndFlag x r f).draws = s.draws := rfl
@[simp] theorem State.resultAndFlag_schedule (s : State) (x : Nibble) (r : VByte) (f : Bool) :
    (s.resultAndFlag x r f).schedule = s.schedule := rfl
@[simp] theorem State.resultAndFlag_readMem (s : State) (x : Nibble) (r : VByte) (f : Bool) (a : Nat) :
    (s.resultAndFlag x r f).readMem a = s.readMem a := rfl

@[simp] theorem raise_eq (e : Error) (s : State) : raise e s = .next (s.latch e) := rfl

end Sys2Proof.Machine
end

