-- ==== Sys2Proof/Laws/Memory.lean ====
section
/-! SUPPORT. What the memory operations do: read after write, blocks, the canonical form, the access check, construction. -/

namespace Sys2Proof.Machine

/-! ## One byte -/

theorem Memory.read_insertCell (m : Memory) (a c : Nat) (b : Byte) :
    (m.insertCell a b).read c = if c = a then b else m.read c := by
  induction m with
  | nil => simp [Memory.insertCell, Memory.read]
  | cons d m ih =>
    simp only [Memory.insertCell]
    split
    · simp [Memory.read]
    · split
      · subst_vars; simp only [Memory.read]; split <;> simp_all
      · rename_i hne
        simp only [Memory.read, ih]
        by_cases hc : c = d.1
        · subst hc; simp [Ne.symm hne]
        · simp [hc]

theorem Memory.read_eraseCell (m : Memory) (a c : Nat) :
    (m.eraseCell a).read c = if c = a then Memory.unlisted a else m.read c := by
  induction m with
  | nil => simp only [Memory.eraseCell, List.filter_nil, Memory.read]; split <;> simp_all
  | cons d m ih =>
    simp only [Memory.eraseCell] at ih
    simp only [Memory.eraseCell, List.filter_cons, bne_iff_ne, ne_eq]
    split
    · simp only [Memory.read, ih]; split <;> simp_all
    · simp only [Memory.read, ih]; split <;> simp_all

/-- A read after a write: the byte written at its address, the old byte anywhere else. -/
@[simp] theorem Memory.read_write (m : Memory) (a c : Nat) (b : Byte) :
    (m.write a b).read c = if c = a then b else m.read c := by
  unfold Memory.write
  split
  · subst_vars; exact Memory.read_eraseCell m a c
  · exact Memory.read_insertCell m a c b

theorem Memory.mem_insertCell {m : Memory} {a : Nat} {b : Byte} {c : Host.Cell} (h : c ∈ m.insertCell a b) :
    c = (a, b) ∨ c ∈ m := by
  induction m with
  | nil => simpa [Memory.insertCell] using h
  | cons d m ih =>
    simp only [Memory.insertCell] at h
    split at h
    · simpa using h
    · split at h
      · simp only [List.mem_cons] at h ⊢; tauto
      · simp only [List.mem_cons] at h ⊢
        rcases h with h | h
        · tauto
        · have := ih h; tauto

theorem Memory.pairwise_insertCell {m : Memory} (a : Nat) (b : Byte) (h : m.Pairwise (fun c d => c.1 < d.1)) :
    (m.insertCell a b).Pairwise (fun c d => c.1 < d.1) := by
  induction m with
  | nil => simp [Memory.insertCell]
  | cons d m ih =>
    obtain ⟨hd, hm⟩ := List.pairwise_cons.1 h
    simp only [Memory.insertCell]
    split
    · rename_i hlt
      refine List.pairwise_cons.2 ⟨fun c hc => ?_, h⟩
      rcases List.mem_cons.1 hc with rfl | hc
      · exact hlt
      · exact hlt.trans (hd c hc)
    · split
      · subst_vars; exact List.pairwise_cons.2 ⟨hd, hm⟩
      · refine List.pairwise_cons.2 ⟨fun c hc => ?_, ih hm⟩
        rcases Memory.mem_insertCell hc with rfl | hc
        · simp only; omega
        · exact hd c hc

/-- A write inside memory keeps the canonical form. -/
theorem Memory.wf_write {m : Memory} {a : Nat} (b : Byte) (h : m.wf) (ha : a < Params.memSize) : (m.write a b).wf := by
  unfold Memory.write
  split
  · exact ⟨h.1.filter _, fun c hc => h.2 c (List.mem_filter.1 hc).1⟩
  · rename_i hb
    refine ⟨Memory.pairwise_insertCell a b h.1, fun c hc => ?_⟩
    rcases Memory.mem_insertCell hc with rfl | hc
    · exact ⟨ha, hb⟩
    · exact h.2 c hc

/-! ## Blocks -/

@[simp] theorem Memory.length_readBytes (m : Memory) (base n : Nat) : (m.readBytes base n).length = n := by
  induction n generalizing base with
  | zero => rfl
  | succ n ih => simp [Memory.readBytes, ih]

/-- The k-th byte of a block read is the byte at base + k. -/
theorem Memory.getD_readBytes (m : Memory) (base n k : Nat) (d : Byte) :
    (m.readBytes base n).getD k d = if k < n then m.read (base + k) else d := by
  induction n generalizing base k with
  | zero => simp [Memory.readBytes]
  | succ n ih =>
    cases k with
    | zero => simp [Memory.readBytes]
    | succ k =>
      simp only [Memory.readBytes, List.getD_cons_succ, ih, Nat.add_lt_add_iff_right]
      congr 2; omega

/-- A read after a block write: the block's byte inside it, the old byte outside. -/
theorem Memory.read_writeBytes (m : Memory) (base : Nat) (bs : List Byte) (a : Nat) :
    (m.writeBytes base bs).read a =
      if base ≤ a ∧ a < base + bs.length then bs.getD (a - base) 0 else m.read a := by
  induction bs generalizing m base with
  | nil => simp only [Memory.writeBytes, List.length_nil]; rw [if_neg (by omega)]
  | cons b bs ih =>
    simp only [Memory.writeBytes, ih, Memory.read_write, List.length_cons]
    by_cases h : a = base
    · subst h; simp
    · by_cases hin : base + 1 ≤ a ∧ a < base + 1 + bs.length
      · rw [if_pos hin, if_pos (by omega)]
        obtain ⟨k, rfl⟩ : ∃ k, a = base + 1 + k := ⟨a - (base + 1), by omega⟩
        rw [show base + 1 + k - (base + 1) = k by omega, show base + 1 + k - base = k + 1 by omega]
        rfl
      · rw [if_neg hin, if_neg h, if_neg (by omega)]

/-- A block write inside memory keeps the canonical form. -/
theorem Memory.wf_writeBytes {m : Memory} {base : Nat} (bs : List Byte) (h : m.wf)
    (hb : base + bs.length ≤ Params.memSize) : (m.writeBytes base bs).wf := by
  induction bs generalizing m base with
  | nil => exact h
  | cons b bs ih =>
    simp only [List.length_cons] at hb
    exact ih (Memory.wf_write b h (by omega)) (by omega)

/-- Reading a byte of a state after a block store. -/
@[simp] theorem State.readMem_storeBytes (s : State) (base : Nat) (bs : List Byte) (a : Nat) :
    (s.storeBytes base bs).readMem a =
      if base ≤ a ∧ a < base + bs.length then bs.getD (a - base) 0 else s.readMem a :=
  Memory.read_writeBytes s.mem base bs a

@[simp] theorem length_bcdDigits (a : VByte) : (bcdDigits a).length = 3 := rfl

@[simp] theorem State.length_regsUpTo (s : State) (x : Nibble) : (s.regsUpTo x).length = x.toNat + 1 := by
  have := x.isLt
  simp [State.regsUpTo]; omega

/-- The k-th byte of V0..Vx is Vk. -/
theorem State.getD_regsUpTo (s : State) (x y : Nibble) (h : y.toNat ≤ x.toNat) (d : Byte) :
    (s.regsUpTo x).getD y.toNat d = s.getV y := by
  have hy : y.toNat < 16 := y.isLt
  simp [State.regsUpTo, State.getV, List.getD_eq_getElem?_getD, Nat.lt_succ_of_le h, Vector.getElem?_eq_getElem hy]

/-! ## The access check -/

/-- The access check in closed form: an access of n > 0 bytes at I ends in memory, or the smallest bad address is I itself when I is
above 0xFFF, else 0x1000 (spec/60_exceptions.md Table E row 5). -/
theorem accessError_eq (base : IndexWord) (n : Nat) :
    accessError base n =
      if n = 0 ∨ base.toNat + n ≤ 0x1000 then none else some (.addressOutOfRange (max base.toNat 0x1000)) := by
  have key : ∀ n, (accessAddrs base n).find? (fun a => decide (Params.addrMax < a)) =
      if n = 0 ∨ base.toNat + n ≤ 0x1000 then none else some (max base.toNat 0x1000) := by
    intro n
    induction n with
    | zero => simp [accessAddrs]
    | succ n ih =>
      have hs : accessAddrs base (n + 1) = accessAddrs base n ++ [base.toNat + n] := by
        simp [accessAddrs, List.range_succ]
      rw [hs, List.find?_append, ih]
      simp only [Params.addrMax_eq]
      by_cases h1 : n = 0 ∨ base.toNat + n ≤ 0x1000
      · rw [if_pos h1]
        by_cases h2 : base.toNat + (n + 1) ≤ 0x1000
        · rw [if_pos (Or.inr h2)]
          simp [show ¬ 4095 < base.toNat + n by omega]
        · rw [if_neg (by omega)]
          rw [show max base.toNat 0x1000 = base.toNat + n by omega]
          simp [show 4095 < base.toNat + n by omega]
      · rw [if_neg h1, if_neg (by omega)]; rfl
  unfold accessError
  rw [key]
  split <;> rfl

/-- An access inside memory goes on. -/
theorem guardAccess_ok {s : State} {n : Nat} (t : State) (h : n = 0 ∨ s.i.toNat + n ≤ 0x1000) : guardAccess s n t = .next t := by
  simp [guardAccess, accessError_eq, h]

/-- An access that leaves memory raises and does nothing else. -/
theorem guardAccess_trap {s : State} {n : Nat} (t : State) (h0 : n ≠ 0) (h : 0x1000 < s.i.toNat + n) :
    guardAccess s n t = .next (s.latch (.addressOutOfRange (max s.i.toNat 0x1000))) := by
  have h' : ¬ (n = 0 ∨ s.i.toNat + n ≤ 0x1000) := by omega
  simp [guardAccess, accessError_eq, h', raise]

/-- Everything a guarded access can do. -/
theorem guardAccess_cases (s : State) (n : Nat) (t : State) :
    ((n = 0 ∨ s.i.toNat + n ≤ 0x1000) ∧ guardAccess s n t = .next t) ∨
      (n ≠ 0 ∧ 0x1000 < s.i.toNat + n ∧
        guardAccess s n t = .next (s.latch (.addressOutOfRange (max s.i.toNat 0x1000)))) := by
  by_cases h : n = 0 ∨ s.i.toNat + n ≤ 0x1000
  · exact .inl ⟨h, guardAccess_ok t h⟩
  · exact .inr ⟨by omega, by omega, guardAccess_trap t (by omega) (by omega)⟩

/-! ## Construction -/

theorem Memory.read_eq_unlisted {m : Memory} {a : Nat} (h : ∀ c ∈ m, c.1 ≠ a) : m.read a = Memory.unlisted a := by
  induction m with
  | nil => rfl
  | cons c m ih =>
    simp only [List.mem_cons, forall_eq_or_imp] at h
    simp only [Memory.read]
    rw [if_neg (fun e => h.1 e.symm)]
    exact ih h.2

theorem Memory.read_filterMap_cells (f : Nat → Byte) (as : List Nat) (a : Nat) :
    Memory.read (as.filterMap (fun a => if f a = Memory.unlisted a then none else some (a, f a))) a =
      if a ∈ as then f a else Memory.unlisted a := by
  induction as with
  | nil => rfl
  | cons c as ih =>
    simp only [List.filterMap_cons, List.mem_cons]
    by_cases hc : f c = Memory.unlisted c
    · simp only [hc, if_true, ih]
      by_cases h : a = c
      · subst h; simp [hc]
      · simp [h]
    · simp only [hc, if_false, Memory.read, ih]
      by_cases h : a = c
      · subst h; simp
      · simp [h]

/-- The canonical memory of a byte function reads as the function. -/
theorem Memory.read_ofBytes (f : Nat → Byte) {a : Nat} (h : a < Params.memSize) : (Memory.ofBytes f).read a = f a := by
  rw [Memory.ofBytes, Memory.read_filterMap_cells, if_pos (List.mem_range.2 h)]

/-- The canonical memory of a byte function is canonical. -/
theorem Memory.wf_ofBytes (f : Nat → Byte) : (Memory.ofBytes f).wf := by
  constructor
  · refine List.Pairwise.filterMap _ (fun a b hab c hc d hd => ?_) List.pairwise_lt_range
    simp only [Option.ite_none_left_eq_some, Option.some.injEq] at hc hd
    obtain ⟨-, rfl⟩ := hc
    obtain ⟨-, rfl⟩ := hd
    exact hab
  · intro c hc
    obtain ⟨a, ha, hac⟩ := List.mem_filterMap.1 hc
    simp only [Option.ite_none_left_eq_some, Option.some.injEq] at hac
    obtain ⟨hne, rfl⟩ := hac
    exact ⟨List.mem_range.1 ha, hne⟩

/-- With FONT_BASE = 0 the font's bytes come first and INIT_MEM's follow. -/
theorem initialByte_eq (font : List Byte) (initMem : Nat → Byte) (a : Nat) :
    initialByte font initMem a = font.getD a (initMem a) := rfl

/-- Construction with the default font and INIT_MEM zero is the reset state. -/
theorem State.construct_default : State.construct Params.font (fun _ => Params.initByte) = State.reset := by
  have h : Memory.ofBytes (initialByte Params.font (fun _ => Params.initByte)) = [] := by
    simp [Memory.ofBytes, Memory.unlisted]
  unfold State.construct
  rw [h]
  rfl

end Sys2Proof.Machine
end

