-- ==== Sys2Proof/Laws/Display.lean ====
section
/-! SUPPORT. What a sprite draw does, pixel by pixel: the framebuffer after it, the collision and DIRTY (spec/44_display.md R89). -/

namespace Sys2Proof.Machine

/-- A toggle shows in the pixel toggled and nowhere else. -/
theorem FrameBuffer.get_toggle (fb : FrameBuffer) {col row : Nat} (hc : col < 64) (hr : row < 32) (px py : Nat) :
    (fb.toggle col row).get px py = if px = col ∧ py = row then !fb.get px py else fb.get px py := by
  unfold FrameBuffer.get FrameBuffer.toggle
  by_cases hp : px < 64 ∧ py < 32
  · simp only [hp, hc, hr, and_self, dite_true, Vector.getElem_set]
    by_cases h1 : col = px
    · subst h1
      by_cases h2 : row = py
      · subst h2; simp
      · simp [h2, Ne.symm h2]
    · simp [h1, Ne.symm h1]
  · have : ¬ (px = col ∧ py = row) := by rintro ⟨rfl, rfl⟩; exact hp ⟨hc, hr⟩
    simp [hp, this]

@[simp] theorem get_blankFrame (px py : Nat) : FrameBuffer.get blankFrame px py = false := by
  unfold FrameBuffer.get blankFrame; split <;> simp

/-- The bit of a row byte, drawn from column xp, that falls on column px. -/
def rowBit (row : Byte) (xp px : Nat) : Bool := row.getLsbD (7 - (px - xp))

/-- A pixel drawn on a canvas. -/
@[simp] theorem Canvas.drawPixel_dirty (c : Canvas) (px py : Nat) : (c.drawPixel px py).dirty = true := rfl

theorem get_drawBits (row : Byte) (xp : Nat) {py : Nat} (hpy : py < 32) (b k : Nat) (c : Canvas) {px : Nat} (hpx : px < 64)
    (q : Nat) :
    (drawBits row xp py (List.range' b k) c).fb.get px q =
      ((c.fb.get px q) ^^ (decide (q = py ∧ xp + b ≤ px ∧ px < xp + b + k) && rowBit row xp px)) := by
  induction k generalizing b c with
  | zero =>
    have : ¬ (q = py ∧ xp + b ≤ px ∧ px < xp + b + 0) := by omega
    rw [decide_eq_false this]
    simp [drawBits]
  | succ k ih =>
    simp only [List.range'_succ, drawBits, Params.fbWidth]
    by_cases hin : 64 ≤ xp + b
    · rw [if_pos hin]
      have : ¬ (q = py ∧ xp + b ≤ px ∧ px < xp + b + (k + 1)) := by omega
      rw [decide_eq_false this]
      simp
    · rw [if_neg hin, ih]
      by_cases hq : q = py
      swap
      · rw [decide_eq_false (fun h => hq h.1), decide_eq_false (fun h => hq h.1)]
        by_cases hb : row.getLsbD (7 - b) = true
        · simp [hb, Canvas.drawPixel, FrameBuffer.get_toggle _ (by omega : xp + b < 64) hpy, hq]
        · simp [hb]
      · by_cases he : px = xp + b
        · have hn : ¬ (q = py ∧ xp + (b + 1) ≤ px ∧ px < xp + (b + 1) + k) := by omega
          have hy : q = py ∧ xp + b ≤ px ∧ px < xp + b + (k + 1) := by omega
          have hr : rowBit row xp px = row.getLsbD (7 - b) := by unfold rowBit; congr 2; omega
          rw [decide_eq_false hn, decide_eq_true hy, hr]
          by_cases hb : row.getLsbD (7 - b) = true
          · simp [hb, Canvas.drawPixel, FrameBuffer.get_toggle _ (by omega : xp + b < 64) hpy, hq, he]
          · simp [hb]
        · have hiff : (q = py ∧ xp + (b + 1) ≤ px ∧ px < xp + (b + 1) + k) ↔
              (q = py ∧ xp + b ≤ px ∧ px < xp + b + (k + 1)) := by omega
          have hdec : decide (q = py ∧ xp + (b + 1) ≤ px ∧ px < xp + (b + 1) + k) =
              decide (q = py ∧ xp + b ≤ px ∧ px < xp + b + (k + 1)) := decide_eq_decide.2 hiff
          rw [hdec]
          by_cases hb : row.getLsbD (7 - b) = true
          · simp [hb, Canvas.drawPixel, FrameBuffer.get_toggle _ (by omega : xp + b < 64) hpy, he]
          · simp [hb]

theorem dirty_drawBits (row : Byte) (xp py b k : Nat) (c : Canvas) :
    (drawBits row xp py (List.range' b k) c).dirty = true ↔
      c.dirty = true ∨ ∃ j, b ≤ j ∧ j < b + k ∧ xp + j < 64 ∧ row.getLsbD (7 - j) = true := by
  induction k generalizing b c with
  | zero =>
    simp only [List.range'_zero, drawBits]
    constructor
    · exact .inl
    · rintro (h | ⟨j, h1, h2, -⟩)
      · exact h
      · omega
  | succ k ih =>
    simp only [List.range'_succ, drawBits, Params.fbWidth]
    by_cases hin : 64 ≤ xp + b
    · rw [if_pos hin]
      constructor
      · exact .inl
      · rintro (h | ⟨j, h1, h2, h3, -⟩)
        · exact h
        · omega
    · rw [if_neg hin, ih]
      constructor
      · rintro (h | ⟨j, h1, h2, h3, h4⟩)
        · by_cases hb : row.getLsbD (7 - b) = true
          · exact .inr ⟨b, le_refl _, by omega, by omega, hb⟩
          · simp only [hb] at h; exact .inl h
        · exact .inr ⟨j, by omega, by omega, h3, h4⟩
      · rintro (h | ⟨j, h1, h2, h3, h4⟩)
        · left; split <;> simp [h]
        · by_cases hj : j = b
          · subst hj; simp [h4]
          · exact .inr ⟨j, by omega, by omega, h3, h4⟩

theorem collision_drawBits (row : Byte) (xp : Nat) {py : Nat} (hpy : py < 32) (b k : Nat) (c : Canvas) :
    (drawBits row xp py (List.range' b k) c).collision = true ↔
      c.collision = true ∨ ∃ j, b ≤ j ∧ j < b + k ∧ xp + j < 64 ∧ row.getLsbD (7 - j) = true ∧ c.fb.get (xp + j) py = true := by
  induction k generalizing b c with
  | zero =>
    simp only [List.range'_zero, drawBits]
    constructor
    · exact .inl
    · rintro (h | ⟨j, h1, h2, -⟩)
      · exact h
      · omega
  | succ k ih =>
    simp only [List.range'_succ, drawBits, Params.fbWidth]
    by_cases hin : 64 ≤ xp + b
    · rw [if_pos hin]
      constructor
      · exact .inl
      · rintro (h | ⟨j, h1, h2, h3, -⟩)
        · exact h
        · omega
    · rw [if_neg hin, ih]
      by_cases hb : row.getLsbD (7 - b) = true
      · simp only [hb, if_true, Canvas.drawPixel, Bool.or_eq_true]
        have hg : ∀ j, b + 1 ≤ j → (c.fb.toggle (xp + b) py).get (xp + j) py = c.fb.get (xp + j) py := by
          intro j hj
          rw [FrameBuffer.get_toggle _ (by omega) hpy, if_neg (by omega)]
        constructor
        · rintro ((h | h) | ⟨j, h1, h2, h3, h4, h5⟩)
          · exact .inl h
          · exact .inr ⟨b, le_refl _, by omega, by omega, hb, h⟩
          · exact .inr ⟨j, by omega, by omega, h3, h4, (hg j h1) ▸ h5⟩
        · rintro (h | ⟨j, h1, h2, h3, h4, h5⟩)
          · exact .inl (.inl h)
          · by_cases hj : j = b
            · subst hj; exact .inl (.inr h5)
            · exact .inr ⟨j, by omega, by omega, h3, h4, (hg j (by omega)).symm ▸ h5⟩
      · simp only [hb]
        constructor
        · rintro (h | ⟨j, h1, h2, h3⟩)
          · exact .inl h
          · exact .inr ⟨j, by omega, by omega, h3⟩
        · rintro (h | ⟨j, h1, h2, h3, h4, h5⟩)
          · exact .inl h
          · by_cases hj : j = b
            · subst hj; exact absurd h4 hb
            · exact .inr ⟨j, by omega, by omega, h3, h4, h5⟩

/-- A sprite bit that is 1, of rows drawn from (xp, py) down, falls on the pixel (px, q). -/
def rowsCover (xp py : Nat) (rows : List Byte) (px q : Nat) : Bool :=
  decide (xp ≤ px ∧ px < xp + 8 ∧ py ≤ q ∧ q < py + rows.length) && rowBit (rows.getD (q - py) 0) xp px

theorem rowsCover_cons (xp py : Nat) (row : Byte) (rows : List Byte) (px q : Nat) :
    rowsCover xp py (row :: rows) px q =
      ((decide (q = py ∧ xp ≤ px ∧ px < xp + 8) && rowBit row xp px) || rowsCover xp (py + 1) rows px q) := by
  unfold rowsCover
  by_cases hq : q = py
  · subst hq
    have h1 : ¬ (xp ≤ px ∧ px < xp + 8 ∧ q + 1 ≤ q ∧ q < q + 1 + rows.length) := by omega
    have h2 : decide (xp ≤ px ∧ px < xp + 8 ∧ q ≤ q ∧ q < q + (row :: rows).length) =
        decide (q = q ∧ xp ≤ px ∧ px < xp + 8) :=
      decide_eq_decide.2 ⟨fun h => ⟨rfl, h.1, h.2.1⟩, fun h => ⟨h.2.1, h.2.2, le_refl _, by simp⟩⟩
    rw [decide_eq_false h1, h2]
    simp
  · by_cases hlt : py < q
    · obtain ⟨r, rfl⟩ : ∃ r, q = py + 1 + r := ⟨q - (py + 1), by omega⟩
      rw [show py + 1 + r - py = r + 1 by omega, show py + 1 + r - (py + 1) = r by omega]
      have h0 : ¬ (py + 1 + r = py ∧ xp ≤ px ∧ px < xp + 8) := by omega
      have hiff : (xp ≤ px ∧ px < xp + 8 ∧ py ≤ py + 1 + r ∧ py + 1 + r < py + (row :: rows).length) ↔
          (xp ≤ px ∧ px < xp + 8 ∧ py + 1 ≤ py + 1 + r ∧ py + 1 + r < py + 1 + rows.length) := by
        simp only [List.length_cons]; omega
      rw [decide_eq_decide.2 hiff, decide_eq_false h0, List.getD_cons_succ, Bool.false_and, Bool.false_or]
    · have h1 : ¬ (xp ≤ px ∧ px < xp + 8 ∧ py ≤ q ∧ q < py + (row :: rows).length) := by omega
      have h2 : ¬ (xp ≤ px ∧ px < xp + 8 ∧ py + 1 ≤ q ∧ q < py + 1 + rows.length) := by omega
      rw [decide_eq_false h1, decide_eq_false h2, decide_eq_false (fun h => hq h.1)]
      rfl

theorem rowsCover_head (xp py : Nat) (rows : List Byte) (px : Nat) : rowsCover xp (py + 1) rows px py = false := by
  unfold rowsCover
  have : ¬ (xp ≤ px ∧ px < xp + 8 ∧ py + 1 ≤ py ∧ py < py + 1 + rows.length) := by omega
  rw [decide_eq_false this, Bool.false_and]

/-- The framebuffer after a draw: every pixel XOR the sprite bit on it. -/
theorem get_drawRows (xp : Nat) (rows : List Byte) (py : Nat) (c : Canvas) {px q : Nat} (hpx : px < 64) (hq : q < 32) :
    (drawRows xp py rows c).fb.get px q = ((c.fb.get px q) ^^ (rowsCover xp py rows px q)) := by
  induction rows generalizing py c with
  | nil =>
    have : ¬ (xp ≤ px ∧ px < xp + 8 ∧ py ≤ q ∧ q < py + ([] : List Byte).length) := by simp only [List.length_nil]; omega
    rw [drawRows, rowsCover, decide_eq_false this]
    simp
  | cons row rows ih =>
    simp only [drawRows, ih, rowsCover_cons, Params.fbHeight]
    by_cases hpy : 32 ≤ py
    · rw [if_pos hpy, decide_eq_false (show ¬ (q = py ∧ xp ≤ px ∧ px < xp + 8) by omega)]
      simp
    · rw [if_neg hpy, List.range_eq_range', get_drawBits row xp (by omega) 0 8 c hpx q]
      by_cases hqp : q = py
      · subst hqp; simp [rowsCover_head]
      · rw [decide_eq_false (fun h => hqp h.1), decide_eq_false (fun h => hqp h.1)]
        simp

/-- DIRTY after a draw: set before, or some sprite bit falls inside the screen. -/
theorem dirty_drawRows (xp : Nat) (rows : List Byte) (py : Nat) (c : Canvas) :
    (drawRows xp py rows c).dirty = true ↔
      c.dirty = true ∨ ∃ px q, px < 64 ∧ q < 32 ∧ rowsCover xp py rows px q = true := by
  induction rows generalizing py c with
  | nil =>
    simp only [drawRows, rowsCover, List.length_nil]
    constructor
    · exact .inl
    · rintro (h | ⟨px, q, -, -, h⟩)
      · exact h
      · simp only [Bool.and_eq_true, decide_eq_true_eq] at h; omega
  | cons row rows ih =>
    simp only [drawRows, ih, rowsCover_cons, Params.fbHeight, Bool.or_eq_true, Bool.and_eq_true, decide_eq_true_eq]
    by_cases hpy : 32 ≤ py
    · rw [if_pos hpy]
      constructor
      · rintro (h | ⟨px, q, h1, h2, h3⟩)
        · exact .inl h
        · exact .inr ⟨px, q, h1, h2, .inr h3⟩
      · rintro (h | ⟨px, q, h1, h2, h3 | h3⟩)
        · exact .inl h
        · omega
        · exact .inr ⟨px, q, h1, h2, h3⟩
    · rw [if_neg hpy, List.range_eq_range', dirty_drawBits]
      constructor
      · rintro ((h | ⟨j, h1, h2, h3, h4⟩) | ⟨px, q, h1, h2, h3⟩)
        · exact .inl h
        · refine .inr ⟨xp + j, py, h3, by omega, .inl ⟨⟨rfl, by omega, by omega⟩, ?_⟩⟩
          unfold rowBit; rwa [show 7 - (xp + j - xp) = 7 - j by omega]
        · exact .inr ⟨px, q, h1, h2, .inr h3⟩
      · rintro (h | ⟨px, q, h1, h2, ⟨⟨h3, h4, h5⟩, h6⟩ | h3⟩)
        · exact .inl (.inl h)
        · exact .inl (.inr ⟨px - xp, by omega, by omega, by omega, h6⟩)
        · exact .inr ⟨px, q, h1, h2, h3⟩

/-- The collision of a draw: some sprite bit inside the screen falls on a pixel lit before the draw. -/
theorem collision_drawRows (xp : Nat) (rows : List Byte) (py : Nat) (c : Canvas) :
    (drawRows xp py rows c).collision = true ↔
      c.collision = true ∨
        ∃ px q, px < 64 ∧ q < 32 ∧ rowsCover xp py rows px q = true ∧ c.fb.get px q = true := by
  induction rows generalizing py c with
  | nil =>
    simp only [drawRows, rowsCover, List.length_nil]
    constructor
    · exact .inl
    · rintro (h | ⟨px, q, -, -, h, -⟩)
      · exact h
      · simp only [Bool.and_eq_true, decide_eq_true_eq] at h; omega
  | cons row rows ih =>
    simp only [drawRows, ih, rowsCover_cons, Params.fbHeight, Bool.or_eq_true, Bool.and_eq_true, decide_eq_true_eq]
    by_cases hpy : 32 ≤ py
    · rw [if_pos hpy]
      constructor
      · rintro (h | ⟨px, q, h1, h2, h3, h4⟩)
        · exact .inl h
        · exact .inr ⟨px, q, h1, h2, .inr h3, h4⟩
      · rintro (h | ⟨px, q, h1, h2, h3 | h3, h4⟩)
        · exact .inl h
        · omega
        · exact .inr ⟨px, q, h1, h2, h3, h4⟩
    · have hpy' : py < 32 := by omega
      have below : ∀ px q, px < 64 → q < 32 → rowsCover xp (py + 1) rows px q = true →
          (drawBits row xp py (List.range' 0 8) c).fb.get px q = c.fb.get px q := by
        intro px q hpx _ hc
        rw [get_drawBits row xp hpy' 0 8 c hpx q]
        have hne : q ≠ py := by rintro rfl; simp [rowsCover_head] at hc
        rw [decide_eq_false (fun h => hne h.1)]
        simp
      rw [if_neg hpy, List.range_eq_range', collision_drawBits row xp hpy']
      constructor
      · rintro ((h | ⟨j, h1, h2, h3, h4, h5⟩) | ⟨px, q, h1, h2, h3, h4⟩)
        · exact .inl h
        · refine .inr ⟨xp + j, py, h3, hpy', .inl ⟨⟨rfl, by omega, by omega⟩, ?_⟩, h5⟩
          unfold rowBit; rwa [show 7 - (xp + j - xp) = 7 - j by omega]
        · exact .inr ⟨px, q, h1, h2, .inr h3, (below px q h1 h2 h3) ▸ h4⟩
      · rintro (h | ⟨px, q, h1, h2, ⟨⟨rfl, h4, h5⟩, h6⟩ | h3, h7⟩)
        · exact .inl (.inl h)
        · refine .inl (.inr ⟨px - xp, by omega, by omega, by omega, h6, ?_⟩)
          rwa [show xp + (px - xp) = px by omega]
        · exact .inr ⟨px, q, h1, h2, h3, (below px q h1 h2 h3).symm ▸ h7⟩

/-- The rows drawn by Dxyn cover the pixels `spriteCovers` says. -/
theorem spriteCovers_eq_rowsCover (s : State) (x y n : Nibble) (px py : Nat) :
    spriteCovers s x y n px py =
      rowsCover (spriteColumn (s.getV x)) (spriteRow (s.getV y)) (s.spriteBytes n) px py := by
  simp only [spriteCovers, rowsCover, rowBit, spriteColumn, spriteRow, State.spriteBytes, Memory.length_readBytes,
    Memory.getD_readBytes, Params.fbWidth, Params.fbHeight]
  by_cases h : (s.getV x).toNat % 64 ≤ px ∧ px < (s.getV x).toNat % 64 + 8 ∧ (s.getV y).toNat % 32 ≤ py ∧
      py < (s.getV y).toNat % 32 + n.toNat
  · rw [if_pos (by omega)]
    rfl
  · rw [decide_eq_false h]
    rfl

end Sys2Proof.Machine
end

