-- ==== Sys2Proof/Laws/PerInstr.lean ====
section
/-! SUPPORT. Per-instruction facts about the syntax: the word of every instruction matches its own row of Table O
(spec/30_encoding.md R46). -/

namespace Sys2Proof.Laws.EncodesOwnRow

/-- The word of the instruction matches the row of Table O that bears its mnemonic. -/
def Statement (i : Instr) : Prop :=
  ∃ r ∈ opcodeRows, r.mnemonic = i.mnemonic ∧ encodeWord i &&& r.mask = r.pattern

theorem cls : Statement (.cls) :=
  ⟨⟨"CLS", 0x00E0, 0xFFFF⟩, by decide, rfl, by decide⟩

theorem ret : Statement (.ret) :=
  ⟨⟨"RET", 0x00EE, 0xFFFF⟩, by decide, rfl, by decide⟩

theorem jp (nnn : Addr12) : Statement (.jp nnn) :=
  ⟨⟨"JP_nnn", 0x1000, 0xF000⟩, by decide, rfl, by rw [encodeWord, wordNNN_mask]; decide⟩

theorem call (nnn : Addr12) : Statement (.call nnn) :=
  ⟨⟨"CALL_nnn", 0x2000, 0xF000⟩, by decide, rfl, by rw [encodeWord, wordNNN_mask]; decide⟩

theorem seImm (x : Nibble) (kk : Byte) : Statement (.seImm x kk) :=
  ⟨⟨"SE_Vx__kk", 0x3000, 0xF000⟩, by decide, rfl, by rw [encodeWord, wordXKK_mask_op]; decide⟩

theorem sneImm (x : Nibble) (kk : Byte) : Statement (.sneImm x kk) :=
  ⟨⟨"SNE_Vx__kk", 0x4000, 0xF000⟩, by decide, rfl, by rw [encodeWord, wordXKK_mask_op]; decide⟩

theorem seReg (x y : Nibble) : Statement (.seReg x y) :=
  ⟨⟨"SE_Vx__Vy", 0x5000, 0xF00F⟩, by decide, rfl, by rw [encodeWord, wordXYN_mask_op_n]; decide⟩

theorem ldImm (x : Nibble) (kk : Byte) : Statement (.ldImm x kk) :=
  ⟨⟨"LD_Vx__kk", 0x6000, 0xF000⟩, by decide, rfl, by rw [encodeWord, wordXKK_mask_op]; decide⟩

theorem addImm (x : Nibble) (kk : Byte) : Statement (.addImm x kk) :=
  ⟨⟨"ADD_Vx__kk", 0x7000, 0xF000⟩, by decide, rfl, by rw [encodeWord, wordXKK_mask_op]; decide⟩

theorem ldReg (x y : Nibble) : Statement (.ldReg x y) :=
  ⟨⟨"LD_Vx__Vy", 0x8000, 0xF00F⟩, by decide, rfl, by rw [encodeWord, wordXYN_mask_op_n]; decide⟩

theorem orReg (x y : Nibble) : Statement (.orReg x y) :=
  ⟨⟨"OR_Vx__Vy", 0x8001, 0xF00F⟩, by decide, rfl, by rw [encodeWord, wordXYN_mask_op_n]; decide⟩

theorem andReg (x y : Nibble) : Statement (.andReg x y) :=
  ⟨⟨"AND_Vx__Vy", 0x8002, 0xF00F⟩, by decide, rfl, by rw [encodeWord, wordXYN_mask_op_n]; decide⟩

theorem xorReg (x y : Nibble) : Statement (.xorReg x y) :=
  ⟨⟨"XOR_Vx__Vy", 0x8003, 0xF00F⟩, by decide, rfl, by rw [encodeWord, wordXYN_mask_op_n]; decide⟩

theorem addReg (x y : Nibble) : Statement (.addReg x y) :=
  ⟨⟨"ADD_Vx__Vy", 0x8004, 0xF00F⟩, by decide, rfl, by rw [encodeWord, wordXYN_mask_op_n]; decide⟩

theorem subReg (x y : Nibble) : Statement (.subReg x y) :=
  ⟨⟨"SUB_Vx__Vy", 0x8005, 0xF00F⟩, by decide, rfl, by rw [encodeWord, wordXYN_mask_op_n]; decide⟩

theorem shr (x y : Nibble) : Statement (.shr x y) :=
  ⟨⟨"SHR_Vx__Vy", 0x8006, 0xF00F⟩, by decide, rfl, by rw [encodeWord, wordXYN_mask_op_n]; decide⟩

theorem subn (x y : Nibble) : Statement (.subn x y) :=
  ⟨⟨"SUBN_Vx__Vy", 0x8007, 0xF00F⟩, by decide, rfl, by rw [encodeWord, wordXYN_mask_op_n]; decide⟩

theorem shl (x y : Nibble) : Statement (.shl x y) :=
  ⟨⟨"SHL_Vx__Vy", 0x800E, 0xF00F⟩, by decide, rfl, by rw [encodeWord, wordXYN_mask_op_n]; decide⟩

theorem sneReg (x y : Nibble) : Statement (.sneReg x y) :=
  ⟨⟨"SNE_Vx__Vy", 0x9000, 0xF00F⟩, by decide, rfl, by rw [encodeWord, wordXYN_mask_op_n]; decide⟩

theorem ldI (nnn : Addr12) : Statement (.ldI nnn) :=
  ⟨⟨"LD_I__nnn", 0xA000, 0xF000⟩, by decide, rfl, by rw [encodeWord, wordNNN_mask]; decide⟩

theorem jpV0 (nnn : Addr12) : Statement (.jpV0 nnn) :=
  ⟨⟨"JP_V0__nnn", 0xB000, 0xF000⟩, by decide, rfl, by rw [encodeWord, wordNNN_mask]; decide⟩

theorem rnd (x : Nibble) (kk : Byte) : Statement (.rnd x kk) :=
  ⟨⟨"RND_Vx__kk", 0xC000, 0xF000⟩, by decide, rfl, by rw [encodeWord, wordXKK_mask_op]; decide⟩

theorem drw (x y n : Nibble) : Statement (.drw x y n) :=
  ⟨⟨"DRW_Vx__Vy__n", 0xD000, 0xF000⟩, by decide, rfl, by rw [encodeWord, wordXYN_mask_op]; decide⟩

theorem skp (x : Nibble) : Statement (.skp x) :=
  ⟨⟨"SKP_Vx", 0xE09E, 0xF0FF⟩, by decide, rfl, by rw [encodeWord, wordXKK_mask_op_kk]; decide⟩

theorem sknp (x : Nibble) : Statement (.sknp x) :=
  ⟨⟨"SKNP_Vx", 0xE0A1, 0xF0FF⟩, by decide, rfl, by rw [encodeWord, wordXKK_mask_op_kk]; decide⟩

theorem ldVxDt (x : Nibble) : Statement (.ldVxDt x) :=
  ⟨⟨"LD_Vx__DT", 0xF007, 0xF0FF⟩, by decide, rfl, by rw [encodeWord, wordXKK_mask_op_kk]; decide⟩

theorem ldVxK (x : Nibble) : Statement (.ldVxK x) :=
  ⟨⟨"LD_Vx__K", 0xF00A, 0xF0FF⟩, by decide, rfl, by rw [encodeWord, wordXKK_mask_op_kk]; decide⟩

theorem ldDtVx (x : Nibble) : Statement (.ldDtVx x) :=
  ⟨⟨"LD_DT__Vx", 0xF015, 0xF0FF⟩, by decide, rfl, by rw [encodeWord, wordXKK_mask_op_kk]; decide⟩

theorem ldStVx (x : Nibble) : Statement (.ldStVx x) :=
  ⟨⟨"LD_ST__Vx", 0xF018, 0xF0FF⟩, by decide, rfl, by rw [encodeWord, wordXKK_mask_op_kk]; decide⟩

theorem addI (x : Nibble) : Statement (.addI x) :=
  ⟨⟨"ADD_I__Vx", 0xF01E, 0xF0FF⟩, by decide, rfl, by rw [encodeWord, wordXKK_mask_op_kk]; decide⟩

theorem ldF (x : Nibble) : Statement (.ldF x) :=
  ⟨⟨"LD_F__Vx", 0xF029, 0xF0FF⟩, by decide, rfl, by rw [encodeWord, wordXKK_mask_op_kk]; decide⟩

theorem ldB (x : Nibble) : Statement (.ldB x) :=
  ⟨⟨"LD_B__Vx", 0xF033, 0xF0FF⟩, by decide, rfl, by rw [encodeWord, wordXKK_mask_op_kk]; decide⟩

theorem storeRegs (x : Nibble) : Statement (.storeRegs x) :=
  ⟨⟨"LD__I___Vx", 0xF055, 0xF0FF⟩, by decide, rfl, by rw [encodeWord, wordXKK_mask_op_kk]; decide⟩

theorem loadRegs (x : Nibble) : Statement (.loadRegs x) :=
  ⟨⟨"LD_Vx___I", 0xF065, 0xF0FF⟩, by decide, rfl, by rw [encodeWord, wordXKK_mask_op_kk]; decide⟩

end Sys2Proof.Laws.EncodesOwnRow
end

