-- ==== Sys2Proof/Laws/Step.lean ====
section
/-! SUPPORT. What fetch, the key-wait poll, a transaction and a step can do, said once; claims about steps cite these. -/

namespace Sys2Proof.Machine

/-! ## Fetch and decode -/

theorem State.fetch_ok {s : State} (h : s.pc.toNat ≤ 0xFFE) :
    s.fetch = .ok (wordOfBytes (s.readMem s.pc.toNat) (s.readMem (s.pc.toNat + 1))) := by
  unfold State.fetch
  rw [if_neg (by simp only [Params.fetchMax_eq]; omega)]
  rfl

theorem State.fetch_error {s : State} (h : 0xFFE < s.pc.toNat) : s.fetch = .error (.fetchOutOfRange s.pc) := by
  unfold State.fetch
  rw [if_pos (by simp only [Params.fetchMax_eq]; omega)]

/-- A decoder that rejects a word rejects it as invalid. -/
theorem decodeWord_error {w : Word} {e : DecodeError} (h : decodeWord w = .error e) : e = .invalidOpcode w := by
  unfold decodeWord decodeGroup0 decodeZeroNibble decodeGroup8 decodeGroupE decodeGroupF at h
  repeat' split at h
  all_goals first
    | (injection h with h; exact h.symm)
    | cases h

/-- Everything fetch and decode can do: PC out of range, an invalid word, or the instruction at PC. -/
theorem State.fetchInstr_cases (s : State) :
    (0xFFE < s.pc.toNat ∧ s.fetchInstr = .error (.fetchOutOfRange s.pc)) ∨
      (s.pc.toNat ≤ 0xFFE ∧ ∃ w, w = wordOfBytes (s.readMem s.pc.toNat) (s.readMem (s.pc.toNat + 1)) ∧
        ((decodeWord w = .error (.invalidOpcode w) ∧ s.fetchInstr = .error (.invalidOpcode w)) ∨
          ∃ i, decodeWord w = .ok i ∧ s.fetchInstr = .ok i)) := by
  by_cases h : s.pc.toNat ≤ 0xFFE
  · refine .inr ⟨h, _, rfl, ?_⟩
    unfold State.fetchInstr
    rw [State.fetch_ok h]
    cases hd : decodeWord (wordOfBytes (s.readMem s.pc.toNat) (s.readMem (s.pc.toNat + 1))) with
    | ok i => exact .inr ⟨i, rfl, by simp [hd]⟩
    | error e => exact .inl ⟨by rw [decodeWord_error hd], by simp [hd]⟩
  · refine .inl ⟨by omega, ?_⟩
    unfold State.fetchInstr
    rw [State.fetch_error (by omega)]

/-! ## The key-wait poll -/

theorem chooseKey_mem (draw : Nat) (k : KeyIndex) (ks : List KeyIndex) : chooseKey draw k ks ∈ k :: ks := by
  cases ks with
  | nil => exact List.mem_cons_self
  | cons l ls =>
    have h : Config.keyChoice draw % ((l :: ls).length + 1) < (k :: l :: ls).length := by
      simpa using Nat.mod_lt _ (Nat.succ_pos _)
    simp only [chooseKey]
    rw [List.getD_eq_getElem _ _ h]
    exact List.getElem_mem h

theorem mem_allKeys (k : KeyIndex) : k ∈ allKeys :=
  List.mem_finRange k

/-- A key is a visible press edge exactly when KEY_FRAME is set and the key is in state Pressed. -/
theorem State.mem_pressEdges (s : State) (k : KeyIndex) : k ∈ s.pressEdges ↔ s.keyFrame = true ∧ s.getKey k = .pressed := by
  unfold State.pressEdges
  split <;> simp_all [mem_allKeys]

/-- Everything the key-wait poll can do: nothing, or the release with some key that has a press edge. -/
theorem keyWaitPoll_cases (s : State) :
    (s.pressEdges = [] ∧ keyWaitPoll s = s) ∨
      ∃ k, s.keyFrame = true ∧ s.getKey k = .pressed ∧ keyWaitPoll s = (s.release k).nextDraw := by
  unfold keyWaitPoll
  cases h : s.pressEdges with
  | nil => exact .inl ⟨rfl, rfl⟩
  | cons k ks =>
    have hm := (s.mem_pressEdges _).1 (h ▸ chooseKey_mem s.draws k ks)
    exact .inr ⟨_, hm.1, hm.2, rfl⟩

/-! ## Instruction ticks -/

theorem unlessFaulted_none {s : State} (h : s.fault = none) (o : Outcome) : unlessFaulted s o = o := by
  simp [unlessFaulted, h]

theorem unlessFaulted_some {s : State} {e : Error} (h : s.fault = some e) (o : Outcome) :
    unlessFaulted s o = .fault (.errorLatched e) := by
  simp [unlessFaulted, h]

theorem unlessFaulted_next {s t : State} {o : Outcome} (h : unlessFaulted s o = .next t) : s.fault = none ∧ o = .next t := by
  unfold unlessFaulted at h
  split at h
  · cases h
  · exact ⟨‹_›, h⟩

/-- A tick that runs an instruction. -/
theorem tickInstr_running {s : State} (hf : s.fault = none) (hw : s.waiting = false) : tickInstr s = runInstr s := by
  simp [tickInstr, unlessFaulted_none hf, hw]

/-- A tick during a key-wait. -/
theorem tickInstr_waiting {s : State} (hf : s.fault = none) (hw : s.waiting = true) :
    tickInstr s = .next (keyWaitPoll s) := by
  simp [tickInstr, unlessFaulted_none hf, hw]

/-- Everything a tick that goes on can have done. -/
theorem tickInstr_cases {s t : State} (h : tickInstr s = .next t) :
    s.fault = none ∧
      ((s.waiting = true ∧ t = keyWaitPoll s) ∨
        (s.waiting = false ∧
          ((0xFFE < s.pc.toNat ∧ t = s.latch (.fetchOutOfRange s.pc)) ∨
            (s.pc.toNat ≤ 0xFFE ∧ ∃ w, w = wordOfBytes (s.readMem s.pc.toNat) (s.readMem (s.pc.toNat + 1)) ∧
              (t = s.latch (.invalidOpcode w) ∨ ∃ i, decodeWord w = .ok i ∧ exec i s = .next t))))) := by
  obtain ⟨hf, h⟩ := unlessFaulted_next h
  refine ⟨hf, ?_⟩
  split at h
  · rename_i hw
    injection h with h
    exact .inl ⟨hw, h.symm⟩
  · rename_i hw
    refine .inr ⟨by simpa using hw, ?_⟩
    unfold runInstr at h
    obtain ⟨hp, he⟩ | ⟨hp, w, hwd, ⟨-, he⟩ | ⟨i, hi, he⟩⟩ := s.fetchInstr_cases <;> rw [he] at h
    · simp only [raise_eq] at h
      injection h with h
      exact .inl ⟨hp, h.symm⟩
    · simp only [raise_eq] at h
      injection h with h
      exact .inr ⟨hp, w, hwd, .inl h.symm⟩
    · exact .inr ⟨hp, w, hwd, .inr ⟨i, hi, h⟩⟩

/-! ## Instructions -/

/-- An instruction leaves memory alone or stores a block that starts at I and ends in memory. -/
theorem exec_mem {i : Instr} {s t : State} (h : exec i s = .next t) :
    t.mem = s.mem ∨ ∃ bs : List Byte, s.i.toNat + bs.length ≤ 0x1000 ∧ t.mem = s.mem.writeBytes s.i.toNat bs := by
  cases i
  case ldB x =>
    obtain ⟨hb, h'⟩ | ⟨-, -, h'⟩ := guardAccess_cases s 3 ((s.storeBytes s.i.toNat (bcdDigits (s.getV x))).advance .single) <;>
      simp only [exec, execLdB, h'] at h <;> injection h with h <;> subst h
    · exact .inr ⟨bcdDigits (s.getV x), by rw [length_bcdDigits]; omega, by simp⟩
    · exact .inl rfl
  case storeRegs x =>
    obtain ⟨hb, h'⟩ | ⟨-, -, h'⟩ :=
      guardAccess_cases s (blockLength x) ((s.storeBytes s.i.toNat (s.regsUpTo x)).advance .single) <;>
      simp only [exec, execStoreRegs, h'] at h <;> injection h with h <;> subst h
    · exact .inr ⟨s.regsUpTo x, by rw [State.length_regsUpTo]; simp only [blockLength] at hb; omega, by simp⟩
    · exact .inl rfl
  case loadRegs x =>
    obtain ⟨hb, h'⟩ | ⟨-, -, h'⟩ := guardAccess_cases s (blockLength x)
      ((s.setRegs (s.mem.readBytes s.i.toNat (blockLength x))).advance .single) <;>
      simp only [exec, execLoadRegs, h'] at h <;> injection h with h <;> subst h <;> exact .inl (by simp)
  case drw x y n =>
    obtain ⟨hb, h'⟩ | ⟨-, -, h'⟩ := guardAccess_cases s n.toNat ((s.putCanvas (s.drawSprite x y n)).advance .single) <;>
      simp only [exec, execDrw, h'] at h <;> injection h with h <;> subst h <;> exact .inl (by simp)
  case ret =>
    simp only [exec, execRet, raise_eq] at h
    split at h <;> injection h with h <;> subst h <;> exact .inl rfl
  case call a =>
    simp only [exec, execCall, raise_eq] at h
    split at h <;> injection h with h <;> subst h <;> exact .inl rfl
  case skp x =>
    simp only [exec, execSkp, keyTest, raise_eq] at h
    split at h <;> injection h with h <;> subst h <;> exact .inl (by simp)
  case sknp x =>
    simp only [exec, execSknp, keyTest, raise_eq] at h
    split at h <;> injection h with h <;> subst h <;> exact .inl (by simp)
  case seImm x kk => injection h with h; subst h; exact .inl (by simp)
  case sneImm x kk => injection h with h; subst h; exact .inl (by simp)
  case seReg x y => injection h with h; subst h; exact .inl (by simp)
  case sneReg x y => injection h with h; subst h; exact .inl (by simp)
  all_goals (injection h with h; subst h; exact .inl rfl)

/-- A call with room pushes its own address and jumps. -/
theorem execCall_push {s : State} (nnn : Addr12) (h : s.sp.val < 16) :
    exec (.call nnn) s = .next ((s.push s.pc h).setPc (addrOperand nnn)) := by
  simp only [exec, execCall]
  exact dif_pos h

/-- A call with 16 return addresses held raises. -/
theorem execCall_overflow {s : State} (nnn : Addr12) (h : s.sp.val = 16) :
    exec (.call nnn) s = .next (s.latch .stackOverflow) := by
  simp only [exec, execCall]
  exact dif_neg (by simp only [Params.stackCapacity]; omega)

/-- A return with an address held pops it and advances past the call. -/
theorem execRet_pop {s : State} (h : 0 < s.sp.val) : exec .ret s = .next ((s.popToPc h).advance .single) := by
  simp only [exec, execRet]
  exact dif_pos h

/-- A return with nothing held raises. -/
theorem execRet_underflow {s : State} (h : s.sp.val = 0) : exec .ret s = .next (s.latch .stackUnderflow) := by
  simp only [exec, execRet]
  exact dif_neg (by omega)

/-- A byte that is a key index names that key. -/
theorem keyOperand_key {v : VByte} {k : KeyIndex} (h : v.toNat = k.val) : keyOperand v = some k := by
  simp [keyOperand, h]

/-- A byte above 0xF names no key. -/
theorem keyOperand_none {v : VByte} (h : 0xF < v.toNat) : keyOperand v = none :=
  dif_neg (by simp only [Params.numKeys_eq]; omega)

/-- Everything a key test can do. -/
theorem keyTest_cases (x : Nibble) (want : Bool) (s : State) :
    (∃ k : KeyIndex, (s.getV x).toNat = k.val ∧
        keyTest x want s = .next (s.advance (skipIf ((s.getKey k).isPressed == want)))) ∨
      (0xF < (s.getV x).toNat ∧ keyTest x want s = .next (s.latch (.keyIndexOutOfRange (s.getV x)))) := by
  by_cases h : (s.getV x).toNat ≤ 0xF
  · obtain ⟨k, hk⟩ : ∃ k : KeyIndex, (s.getV x).toNat = k.val :=
      ⟨⟨(s.getV x).toNat, by simp only [Params.numKeys_eq]; omega⟩, rfl⟩
    exact .inl ⟨k, hk, by simp only [keyTest, keyOperand_key hk]⟩
  · exact .inr ⟨by omega, by simp only [keyTest, keyOperand_none (by omega : 0xF < (s.getV x).toNat), raise_eq]⟩

/-! ## Steps -/

theorem step_nil {s : State} (h : s.schedule = []) : step s = tickInstr s := by
  simp [step, runTransaction, nextTransaction, h, transact]

theorem step_cons {s : State} {r : Transaction} {rest : List Transaction} (h : s.schedule = r :: rest) :
    step s = transact r { s with schedule := rest } := by
  simp [step, runTransaction, nextTransaction, h]

/-- A step is one transaction: an instruction tick when nothing is scheduled, else the head of the schedule. -/
theorem step_cases (s : State) :
    (s.schedule = [] ∧ step s = tickInstr s) ∨
      ∃ r rest, s.schedule = r :: rest ∧ step s = transact r { s with schedule := rest } := by
  cases h : s.schedule with
  | nil => exact .inl ⟨rfl, step_nil h⟩
  | cons r rest => exact .inr ⟨r, rest, rfl, step_cons h⟩

/-- Everything a transaction that goes on can have done. -/
theorem transact_cases {r : Transaction} {s t : State} (h : transact r s = .next t) :
    (∃ rom, r = .load rom ∧ s.fault = none ∧ romFits rom = true ∧ t = s.storeBytes Params.programBase rom) ∨
      (r = .tickInstr ∧ tickInstr s = .next t) ∨
      (r = .tickTimer ∧ s.fault = none ∧ t = s.countTimers) ∨
      (∃ k p, r = .keyEvent k p ∧ s.fault = none ∧ t = s.moveKey k p) ∨
      (r = .frameReset ∧ s.fault = none ∧ t = s.clearKeyFrame) ∨
      (r = .dirtyQuery ∧ s.fault = none ∧ t = s.clearDirty) ∨
      ((r = .fbRead ∨ r = .timerRead) ∧ t = s) := by
  cases r with
  | load rom =>
    obtain ⟨hf, h⟩ := unlessFaulted_next h
    unfold loadRom at h
    split at h
    · injection h with h
      exact .inl ⟨rom, rfl, hf, ‹_›, h.symm⟩
    · cases h
  | tickInstr => exact .inr (.inl ⟨rfl, h⟩)
  | tickTimer =>
    obtain ⟨hf, h⟩ := unlessFaulted_next h
    injection h with h
    exact .inr (.inr (.inl ⟨rfl, hf, h.symm⟩))
  | keyEvent k p =>
    obtain ⟨hf, h⟩ := unlessFaulted_next h
    injection h with h
    exact .inr (.inr (.inr (.inl ⟨k, p, rfl, hf, h.symm⟩)))
  | frameReset =>
    obtain ⟨hf, h⟩ := unlessFaulted_next h
    injection h with h
    exact .inr (.inr (.inr (.inr (.inl ⟨rfl, hf, h.symm⟩))))
  | dirtyQuery =>
    obtain ⟨hf, h⟩ := unlessFaulted_next h
    injection h with h
    exact .inr (.inr (.inr (.inr (.inr (.inl ⟨rfl, hf, h.symm⟩)))))
  | fbRead => injection h with h; exact .inr (.inr (.inr (.inr (.inr (.inr ⟨.inl rfl, h.symm⟩)))))
  | timerRead => injection h with h; exact .inr (.inr (.inr (.inr (.inr (.inr ⟨.inr rfl, h.symm⟩)))))

end Sys2Proof.Machine
end

