-- ==== Sys2Proof/Tests/Slice0.lean ====
section
/-! SUPPORT. Small tests whose expected results are the spec's own vectors (spec/95_test_vectors.md, cited by their ids) or hand
calculation from a rule, and for every obligation with hypotheses a state and operands that meet them. -/

namespace Sys2Proof.Tests
open Sys2Proof Sys2Proof.Machine

/-! ## Small states -/

/-- The answer is a next state that passes. -/
def answers (o : Outcome) (p : State → Bool) : Bool :=
  match o with
  | .next t => p t
  | _ => false

/-- The word, placed where the state fetches, run for one step. -/
def ran (s : State) (w : Nat) (p : State → Bool) : Bool := answers (step (s.withFetchWord 16 w)) p

/-- The reset state with some registers set. -/
def regs (rs : List (Nibble × VByte)) : State := rs.foldl (fun s r => s.setV r.1 r.2) State.reset

/-- The reset state with I and some registers set. -/
def index (i : IndexWord) (rs : List (Nibble × VByte)) : State := (regs rs).setI i

/-- The reset state with I, and bytes at it. -/
def block (i : IndexWord) (bs : List Byte) (rs : List (Nibble × VByte)) : State := (index i rs).storeBytes i.toNat bs

/-- The reset state with return addresses held. -/
def calls (sp : Fin Params.spRange) (top : StackWord) : State := { State.reset with sp := sp, stack := Vector.replicate _ top }

/-- The reset state with key 7 in a state and V1 = 7. -/
def key7 (q : KeyState) : State := (regs [(1, 7)]).setKey 7 q

/-- A key-wait for V3 with the frame flag given and key 7 in a state (vectors KT12 to KT14). -/
def waitingFor3 (frame : Bool) (q : KeyState) : State :=
  { State.reset.setKey 7 q with waiting := true, waitReg := 3, keyFrame := frame }

/-- The reset state with PC elsewhere. -/
def atPc (pc : PcWord) : State := State.reset.setPc pc

/-- The pixels of a row that are lit, as column numbers. -/
def litRow (t : State) (row : Nat) : List Nat := (List.range 64).filter (fun col => t.fb.get col row)

/-- The reset state with one lit pixel. -/
def pixel (s : State) (col row : Nat) : State := { s with fb := s.fb.toggle col row }

/-! ## The parameters -/

/-- Table P (00_scope.md R5), every row that is a number. -/
theorem test_table_p :
    Params.numV = 16 ∧ Params.vWidth = 8 ∧ Params.iWidth = 16 ∧ Params.pcWidth = 16 ∧ Params.pcReset = 0x200 ∧
    Params.stackCapacity = 16 ∧ Params.stackEntryWidth = 16 ∧ Params.spRange = 16 + 1 ∧ Params.memSize = 4096 ∧
    Params.addrBits = 12 ∧ Params.fetchMax = 0xFFE ∧ Params.pcHighest = 0x10FE ∧ Params.reservedLo = 0x000 ∧ Params.reservedHi = 0x1FF ∧ Params.programBase = 0x200 ∧
    Params.romMax = 3584 ∧ Params.fontBase = 0x000 ∧ Params.glyphBytes = 5 ∧ Params.fontGlyphs = 16 ∧ Params.fontBytes = 80 ∧
    Params.fbWidth = 64 ∧ Params.fbHeight = 32 ∧ Params.numKeys = 16 ∧ Params.dtWidth = 8 ∧ Params.stWidth = 8 ∧
    Params.fx1eLimit = 0xFFF ∧ Params.timerHz = 60 := by decide

/-! ## What is ill formed is refused -/

/-- One word of each invalid class of 30_encoding.md R47, and the edges of the valid ones. -/
theorem test_ill_formed_words_refused :
    validWord 0x0000 = false ∧ validWord 0x0123 = false ∧ validWord 0x00E1 = false ∧ validWord 0x01E0 = false ∧
    validWord 0x5121 = false ∧ validWord 0x8008 = false ∧ validWord 0x800F = false ∧ validWord 0x912F = false ∧
    validWord 0xE09F = false ∧ validWord 0xE0A2 = false ∧ validWord 0xF017 = false ∧ validWord 0xF075 = false ∧
    validWord 0x00E0 = true ∧ validWord 0xFF65 = true := by decide

/-- A ROM of 3584 bytes fits and one of 3585 does not (20_memory.md R30). -/
theorem test_ill_formed_rom_refused :
    romFits (List.replicate 3584 0) = true ∧ romFits (List.replicate 3585 0) = false := by
  simp only [romFits, List.length_replicate]; decide

/-- LOAD stands first and once or not at all (40_execution_cycle.md R51). -/
theorem test_ill_formed_schedule_refused :
    scheduleAdmissible [.load [0x12, 0x00], .tickInstr] = true ∧ scheduleAdmissible [.tickInstr, .load []] = false ∧
    scheduleAdmissible [.load [], .load []] = false ∧ scheduleAdmissible (conventionalFrame [(7, .press)] 3) = true := by
  decide

/-- Memory cells that repeat, fall, leave memory or say what is so anyway are not canonical. -/
theorem test_ill_formed_memory_refused :
    Memory.wf [(0x300, 1), (0x301, 2)] ∧ ¬ Memory.wf [(0x301, 1), (0x300, 2)] ∧ ¬ Memory.wf [(0x300, 1), (0x300, 2)] ∧
    ¬ Memory.wf [(0x1000, 1)] ∧ ¬ Memory.wf [(0x300, 0)] ∧ ¬ Memory.wf [(0x000, 0xF0)] := by decide

/-! ## Decoding, words written from Table O and Table FLD -/

/-- Groups 0 to 7. -/
theorem test_decode_groups_0_to_7 :
    decode [0x00, 0xE0] = .ok (.cls, []) ∧ decode [0x00, 0xEE] = .ok (.ret, []) ∧
    decodeWord 0b0001101010111100 = .ok (.jp 0xABC) ∧ decodeWord 0b0010001100000000 = .ok (.call 0x300) ∧
    decodeWord 0b0011000101000010 = .ok (.seImm 1 0x42) ∧ decodeWord 0x4142 = .ok (.sneImm 1 0x42) ∧
    decodeWord 0x5120 = .ok (.seReg 1 2) ∧ decodeWord 0b0110101001011011 = .ok (.ldImm 0xA 0x5B) ∧
    decodeWord 0x7220 = .ok (.addImm 2 0x20) := by decide

/-- Group 8. -/
theorem test_decode_group_8 :
    decodeWord 0x8120 = .ok (.ldReg 1 2) ∧ decodeWord 0x8121 = .ok (.orReg 1 2) ∧ decodeWord 0x8122 = .ok (.andReg 1 2) ∧
    decodeWord 0x8123 = .ok (.xorReg 1 2) ∧ decodeWord 0b1000000100100100 = .ok (.addReg 1 2) ∧
    decodeWord 0x8125 = .ok (.subReg 1 2) ∧ decodeWord 0x8126 = .ok (.shr 1 2) ∧ decodeWord 0x8127 = .ok (.subn 1 2) ∧
    decodeWord 0x812E = .ok (.shl 1 2) := by decide

/-- Groups 9 to E. -/
theorem test_decode_groups_9_to_E :
    decodeWord 0x9120 = .ok (.sneReg 1 2) ∧ decodeWord 0b1010000100100011 = .ok (.ldI 0x123) ∧
    decodeWord 0xB300 = .ok (.jpV0 0x300) ∧ decodeWord 0xC30F = .ok (.rnd 3 0x0F) ∧
    decodeWord 0b1101000100100101 = .ok (.drw 1 2 5) ∧ decodeWord 0b1110000110011110 = .ok (.skp 1) ∧
    decodeWord 0xE1A1 = .ok (.sknp 1) := by decide

/-- Group F. -/
theorem test_decode_group_F :
    decodeWord 0b1111010100000111 = .ok (.ldVxDt 5) ∧ decodeWord 0xF30A = .ok (.ldVxK 3) ∧
    decodeWord 0xF515 = .ok (.ldDtVx 5) ∧ decodeWord 0xF218 = .ok (.ldStVx 2) ∧ decodeWord 0xF21E = .ok (.addI 2) ∧
    decodeWord 0xF229 = .ok (.ldF 2) ∧ decodeWord 0xF533 = .ok (.ldB 5) ∧ decodeWord 0xF255 = .ok (.storeRegs 2) ∧
    decodeWord 0b1111111101100101 = .ok (.loadRegs 0xF) := by decide

/-- The encoder gives the words of Table O (vectors CF3, AL10, DR3, IM15). -/
theorem test_encode_words :
    encode (.call 0x300) = [0x23, 0x00] ∧ encode (.addReg 1 2) = [0x81, 0x24] ∧ encode (.drw 0 1 1) = [0xD0, 0x11] ∧
    encode (.storeRegs 2) = [0xF2, 0x55] := by decide

/-- Fewer than two bytes are no instruction; the table's numbering puts the first byte in bits 15 to 8. -/
theorem test_decode_edges :
    decode [0x12] = .error (.truncated [0x12]) ∧ decodeTableWord 16 0x8124 = some (.addReg 1 2) ∧
    decodeTableWord 16 0x8128 = none := by decide

/-! ## Fetch, tick and errors -/

/-- FA1, FA5: the word at 0xFFE is fetched. -/
theorem test_fetch_at_the_top :
    ran (atPc 0xFFE) 0x1000 (fun t => t.pc == 0x000) = true ∧
    ran (atPc 0xFFE) 0x6001 (fun t => t.getV 0 == 1 && t.pc == 0x1000) = true := by decide

/-- FA2, FA4: a fetch at 0xFFF or 0x1000 fails and PC stays. -/
theorem test_fetch_above_the_top :
    answers (step (atPc 0xFFF)) (fun t => t.fault == some (.fetchOutOfRange 0xFFF) && t.pc == 0xFFF) = true ∧
    answers (step (atPc 0x1000)) (fun t => t.fault == some (.fetchOutOfRange 0x1000)) = true := by decide

/-- FA3: an odd PC is fetched from like any other. -/
theorem test_fetch_odd : ran (atPc 0x201) 0x1203 (fun t => t.pc == 0x203 && t.fault == none) = true := by decide

/-- FA6: an invalid word under a key-wait is not fetched. -/
theorem test_no_fetch_while_waiting :
    let s := (waitingFor3 false .released).storeBytes 0x200 [0xFF, 0xFF]
    answers (step s) (fun t => t == s) = true := by decide

/-- FA7, KT24: with an error latched there is no step, but the display and the timers can be read. -/
theorem test_faulted_machine_stops :
    step (State.reset.latch .stackOverflow) = .fault (.errorLatched .stackOverflow) ∧
    transact .tickTimer (State.reset.latch .stackOverflow) = .fault (.errorLatched .stackOverflow) ∧
    transact .fbRead (State.reset.latch .stackOverflow) = .next (State.reset.latch .stackOverflow) := ⟨rfl, rfl, rfl⟩

/-- P6: an invalid word is latched with its value and nothing else changes. -/
theorem test_invalid_word :
    ran State.reset 0x5121
      (fun t => t == (State.reset.withFetchWord 16 0x5121).latch (.invalidOpcode 0x5121)) = true := by decide

/-- From reset with nothing placed the first tick meets the word 0x0000 (notes/assumptions 11). -/
theorem test_reset_without_program :
    answers (step State.reset) (fun t => t == State.reset.latch (.invalidOpcode 0)) = true := by decide

/-- The codes of Table E and the results a tick returns. -/
theorem test_tick_results :
    Error.code (.invalidOpcode 0) = 1 ∧ Error.code (.keyIndexOutOfRange 0x10) = 6 ∧
    reply .tickInstr State.reset = .err (.invalidOpcode 0) ∧ reply .tickInstr (State.reset.withFetchWord 16 0x00E0) = .ok := by
  decide

/-! ## Control flow -/

theorem test_jp : ran State.reset 0x1ABC (fun t => t.pc == 0xABC) = true := by decide           -- CF1

/-- CF3, CF5: the call's own address is pushed. -/
theorem test_call :
    ran State.reset 0x2300 (fun t => t.stack[0] == 0x200 && t.sp == 1 && t.pc == 0x300) = true ∧
    ran (atPc 0xFFE) 0x2FFE (fun t => t.stack[0] == 0xFFE && t.pc == 0xFFE) = true := by decide

theorem test_call_overflow :                                                                             -- CF4
    ran (calls 16 0x200) 0x2300 (fun t => t.fault == some .stackOverflow && t.sp == 16 && t.pc == 0x200) = true := by
  decide

/-- CF6, CF8: the return advances past the call. -/
theorem test_ret :
    ran (calls 1 0x200) 0x00EE (fun t => t.sp == 0 && t.pc == 0x202) = true ∧
    ran (calls 1 0xFFE) 0x00EE (fun t => t.sp == 0 && t.pc == 0x1000) = true := by decide

theorem test_ret_underflow : ran State.reset 0x00EE (fun t => t.fault == some .stackUnderflow) = true := by   -- CF7
  decide

/-- CF9, CF10: no wrap at 12 bits. -/
theorem test_jp_v0 :
    ran (regs [(0, 0x10)]) 0xB300 (fun t => t.pc == 0x310) = true ∧
    ran (regs [(0, 0xFF)]) 0xBFFF (fun t => t.pc == 0x10FE) = true := by decide

/-- CF11, CF12, CF16. -/
theorem test_skips_immediate :
    ran (regs [(1, 0x42)]) 0x3142 (fun t => t.pc == 0x204) = true ∧ ran (regs [(1, 0x41)]) 0x3142 (fun t => t.pc == 0x202) = true ∧
    ran (regs [(1, 0x42)]) 0x4142 (fun t => t.pc == 0x202) = true ∧ ran (regs [(1, 0x41)]) 0x4142 (fun t => t.pc == 0x204) = true ∧
    ran State.reset 0x3F00 (fun t => t.pc == 0x204) = true := by decide

/-- CF13 to CF15. -/
theorem test_skips_register :
    ran (regs [(1, 3), (2, 3)]) 0x5120 (fun t => t.pc == 0x204) = true ∧
    ran (regs [(1, 3), (2, 4)]) 0x5120 (fun t => t.pc == 0x202) = true ∧
    ran (regs [(1, 3), (2, 3)]) 0x9120 (fun t => t.pc == 0x202) = true ∧
    ran (regs [(1, 3), (2, 4)]) 0x9120 (fun t => t.pc == 0x204) = true ∧
    ran State.reset 0x5110 (fun t => t.pc == 0x204) = true := by decide

/-! ## Arithmetic and logic -/

theorem test_ld_imm : ran State.reset 0x6A5B (fun t => t.getV 0xA == 0x5B && t.pc == 0x202) = true := by decide   -- S1

/-- AL2 to AL4: no flag. -/
theorem test_add_imm :
    ran (regs [(2, 0xF0)]) 0x7220 (fun t => t.getV 2 == 0x10 && t.getV 0xF == 0) = true ∧
    ran (regs [(2, 1), (0xF, 1)]) 0x72FF (fun t => t.getV 2 == 0 && t.getV 0xF == 1) = true ∧
    ran (regs [(0xF, 0x10)]) 0x7F01 (fun t => t.getV 0xF == 0x11) = true := by decide

theorem test_ld_reg : ran (regs [(2, 0x77)]) 0x8120 (fun t => t.getV 1 == 0x77) = true := by decide   -- AL5

/-- AL6 to AL9: VF stays. -/
theorem test_logic :
    ran (regs [(1, 0xF0), (2, 0x0F), (0xF, 0x55)]) 0x8121 (fun t => t.getV 1 == 0xFF && t.getV 0xF == 0x55) = true ∧
    ran (regs [(1, 0xF0), (2, 0x3C), (0xF, 0x55)]) 0x8122 (fun t => t.getV 1 == 0x30 && t.getV 0xF == 0x55) = true ∧
    ran (regs [(1, 0xFF), (2, 0x0F), (0xF, 0x55)]) 0x8123 (fun t => t.getV 1 == 0xF0 && t.getV 0xF == 0x55) = true ∧
    ran (regs [(1, 0x12)]) 0x8113 (fun t => t.getV 1 == 0) = true := by decide

/-- AL10, AL12: with x = F the flag overwrites the result. -/
theorem test_add_reg :
    ran (regs [(1, 0xFF), (2, 1)]) 0x8124 (fun t => t.getV 1 == 0 && t.getV 0xF == 1) = true ∧
    ran (regs [(1, 1), (2, 1)]) 0x8124 (fun t => t.getV 1 == 2 && t.getV 0xF == 0) = true ∧
    ran (regs [(1, 1), (0xF, 0xFF)]) 0x8F14 (fun t => t.getV 0xF == 1) = true := by decide

/-- S4, AL13, AL14. -/
theorem test_sub_reg :
    ran (regs [(1, 3), (2, 5)]) 0x8125 (fun t => t.getV 1 == 0xFE && t.getV 0xF == 0) = true ∧
    ran (regs [(1, 7), (2, 7)]) 0x8125 (fun t => t.getV 1 == 0 && t.getV 0xF == 1) = true ∧
    ran (regs [(0xF, 3), (1, 5)]) 0x8F15 (fun t => t.getV 0xF == 0) = true := by decide

/-- AL15, AL17: Vy is ignored. -/
theorem test_shr :
    ran (regs [(1, 5), (2, 0xFF)]) 0x8126 (fun t => t.getV 1 == 2 && t.getV 0xF == 1) = true ∧
    ran (regs [(0xF, 3)]) 0x8F06 (fun t => t.getV 0xF == 1) = true := by decide

/-- AL18 to AL20. -/
theorem test_subn :
    ran (regs [(1, 3), (2, 5)]) 0x8127 (fun t => t.getV 1 == 2 && t.getV 0xF == 1) = true ∧
    ran (regs [(1, 5), (2, 3)]) 0x8127 (fun t => t.getV 1 == 0xFE && t.getV 0xF == 0) = true ∧
    ran (regs [(1, 5), (2, 5)]) 0x8127 (fun t => t.getV 1 == 0 && t.getV 0xF == 1) = true := by decide

/-- AL21 to AL23. -/
theorem test_shl :
    ran (regs [(1, 0x81)]) 0x812E (fun t => t.getV 1 == 2 && t.getV 0xF == 1) = true ∧
    ran (regs [(1, 0x40)]) 0x812E (fun t => t.getV 1 == 0x80 && t.getV 0xF == 0) = true ∧
    ran (regs [(0xF, 0x80)]) 0x8FFE (fun t => t.getV 0xF == 1) = true := by decide

/-- AL25: a mask of 0 gives 0 whatever the free byte, and the draw is counted. -/
theorem test_rnd : ∃ t, exec (.rnd 3 0) (regs [(3, 9)]) = .next t ∧ t.getV 3 = 0 ∧ t.draws = 1 :=
  ⟨_, rfl, BitVec.and_zero, rfl⟩

/-! ## Index register and memory -/

theorem test_ld_i : ran State.reset 0xA123 (fun t => t.i == 0x123) = true := by decide                 -- IM1

/-- IM3 to IM6. -/
theorem test_add_i :
    ran (index 0xFFF [(2, 1)]) 0xF21E (fun t => t.i == 0x1000 && t.getV 0xF == 1) = true ∧
    ran (index 0xFF0 [(2, 0x0F)]) 0xF21E (fun t => t.i == 0xFFF && t.getV 0xF == 0) = true ∧
    ran (index 0xFFFF [(2, 0xFF)]) 0xF21E (fun t => t.i == 0x00FE && t.getV 0xF == 1) = true ∧
    ran (index 0x100 [(0xF, 0x20)]) 0xFF1E (fun t => t.i == 0x120 && t.getV 0xF == 0) = true := by decide

/-- IM8, IM9: the digit is not masked. -/
theorem test_ld_f :
    ran (regs [(2, 0xA)]) 0xF229 (fun t => t.i == 0x032) = true ∧ ran (regs [(2, 0xFF)]) 0xF229 (fun t => t.i == 0x4FB) = true := by
  decide

/-- S5, IM11, IM13. -/
theorem test_ld_b :
    ran (index 0x300 [(5, 156)]) 0xF533 (fun t => t.mem.readBytes 0x300 3 == [1, 5, 6] && t.i == 0x300) = true ∧
    ran (index 0x300 [(5, 255)]) 0xF533 (fun t => t.mem.readBytes 0x300 3 == [2, 5, 5]) = true ∧
    ran (index 0xFFD [(5, 1)]) 0xF533 (fun t => t.mem.readBytes 0xFFD 3 == [0, 0, 1]) = true := by decide

/-- IM14, IM18, IM21: the smallest bad address, and nothing written. -/
theorem test_access_traps :
    ran (index 0xFFE [(5, 1)]) 0xF533 (fun t => t.fault == some (.addressOutOfRange 0x1000) && t.readMem 0xFFE == 0) = true ∧
    ran (index 0xFF8 [(0, 1)]) 0xFF55 (fun t => t.fault == some (.addressOutOfRange 0x1000) && t.readMem 0xFF8 == 0) = true ∧
    ran (index 0xFFF [(0, 9)]) 0xF165 (fun t => t.fault == some (.addressOutOfRange 0x1000) && t.getV 0 == 9) = true := by
  decide

/-- IM15, IM17: x inclusive, I unchanged. -/
theorem test_store_regs :
    ran (index 0x300 [(0, 1), (1, 2), (2, 3), (3, 4)]) 0xF255
      (fun t => t.mem.readBytes 0x300 4 == [1, 2, 3, 0] && t.i == 0x300) = true ∧
    ran (index 0xFF0 [(0, 1), (0xF, 0x77)]) 0xFF55 (fun t => t.readMem 0xFF0 == 1 && t.readMem 0xFFF == 0x77) = true := by
  decide

/-- IM23: the next fetch reads the stored word. -/
theorem test_stored_code :
    ran (index 0x202 [(0, 0x12), (1, 0x34)]) 0xF155 (fun t => answers (step t) (fun u => u.pc == 0x234)) = true := by decide

/-- IM19, IM22. -/
theorem test_load_regs :
    ran (block 0x300 [1, 5, 6, 7] [(3, 8)]) 0xF265
      (fun t => t.getV 0 == 1 && t.getV 1 == 5 && t.getV 2 == 6 && t.getV 3 == 8 && t.i == 0x300) = true ∧
    ran (index 0x200 []) 0xF065 (fun t => t.getV 0 == 0xF0) = true := by decide

/-! ## Display -/

theorem test_cls : ran (pixel State.reset 5 5) 0x00E0 (fun t => litRow t 5 == [] && t.dirty) = true := by decide   -- DR1

/-- DR3: XOR with a collision. -/
theorem test_drw_collision :
    ran (pixel (block 0x300 [0xFF] []) 3 0) 0xD011
      (fun t => litRow t 0 == [0, 1, 2, 4, 5, 6, 7] && t.getV 0xF == 1 && t.dirty) = true := by decide

/-- DR5, DR6: clipped at the right and at the bottom. -/
theorem test_drw_clips :
    ran (block 0x300 [0xFF] [(0, 60)]) 0xD011 (fun t => litRow t 0 == [60, 61, 62, 63] && t.getV 0xF == 0) = true ∧
    ran (block 0x300 [0x80, 0x80, 0x80] [(1, 30)]) 0xD013
      (fun t => litRow t 30 == [0] && litRow t 31 == [0] && litRow t 0 == []) = true := by decide

/-- DR7, DR10: the start position wraps, and VF is read as a coordinate before it is written. -/
theorem test_drw_start :
    ran (block 0x300 [0x80] [(0, 64), (1, 33)]) 0xD011 (fun t => litRow t 1 == [0] && litRow t 0 == []) = true ∧
    ran (block 0x300 [0x80] [(0xF, 10)]) 0xDF01 (fun t => litRow t 0 == [10] && t.getV 0xF == 0) = true := by decide

/-- DR8, DR9, DR13: nothing drawn leaves DIRTY; an access past the end leaves everything. -/
theorem test_drw_nothing :
    ran (index 0xFFFF [(0xF, 1)]) 0xD010 (fun t => t.getV 0xF == 0 && !t.dirty && t.fault == none) = true ∧
    ran (index 0x300 []) 0xD011 (fun t => t.getV 0xF == 0 && !t.dirty) = true ∧
    ran (index 0xFFF [(0xF, 1)]) 0xD012 (fun t => t.fault == some (.addressOutOfRange 0x1000) && t.getV 0xF == 1) = true := by
  decide

/-! ## Keys and timers -/

/-- KT1 to KT4. -/
theorem test_skp :
    ran (key7 .pressed) 0xE19E (fun t => t.pc == 0x204) = true ∧ ran (key7 .held) 0xE19E (fun t => t.pc == 0x204) = true ∧
    ran (key7 .released) 0xE19E (fun t => t.pc == 0x202) = true ∧
    ran (regs [(1, 0x10)]) 0xE19E (fun t => t.fault == some (.keyIndexOutOfRange 0x10)) = true := by decide

/-- KT5 to KT7. -/
theorem test_sknp :
    ran (key7 .released) 0xE1A1 (fun t => t.pc == 0x204) = true ∧ ran (key7 .held) 0xE1A1 (fun t => t.pc == 0x202) = true ∧
    ran (regs [(1, 0xFF)]) 0xE1A1 (fun t => t.fault == some (.keyIndexOutOfRange 0xFF)) = true := by decide

/-- KT8 to KT10. -/
theorem test_timer_loads :
    ran { State.reset with dt := 0x20 } 0xF507 (fun t => t.getV 5 == 0x20) = true ∧
    ran (regs [(5, 60)]) 0xF515 (fun t => t.dt == 60 && t.st == 0) = true ∧
    ran (regs [(2, 3)]) 0xF218 (fun t => t.st == 3 && t.dt == 0) = true := by decide

theorem test_ld_k : ran State.reset 0xF30A (fun t => t.waiting && t.waitReg == 3 && t.pc == 0x200) = true := by decide   -- KT11

/-- KT12 to KT14: release on a press edge only. -/
theorem test_key_wait :
    answers (step (waitingFor3 true .pressed)) (fun t => t.getV 3 == 7 && !t.waiting && t.pc == 0x202) = true ∧
    answers (step (waitingFor3 false .pressed)) (fun t => t == waitingFor3 false .pressed) = true ∧
    answers (step (waitingFor3 true .held)) (fun t => t == waitingFor3 true .held) = true := by decide

/-- KT18, KT19: timers stop at 0, and the tone follows ST. -/
theorem test_tick_timer :
    answers (transact .tickTimer { State.reset with dt := 1 }) (fun t => t.dt == 0 && t.st == 0) = true ∧
    answers (transact .tickTimer { State.reset with st := 2 }) (fun t => t.st == 1 && t.tone) = true ∧
    answers (transact .tickTimer { State.reset with st := 1 }) (fun t => t.st == 0 && !t.tone) = true := by decide

/-- KT20 to KT22. -/
theorem test_key_event :
    answers (transact (.keyEvent 3 .press) State.reset) (fun t => t.getKey 3 == .pressed && t.keyFrame) = true ∧
    answers (transact (.keyEvent 3 .press) (State.reset.setKey 3 .pressed)) (fun t => t.getKey 3 == .held && !t.keyFrame) = true ∧
    answers (transact (.keyEvent 3 .release) (State.reset.setKey 3 .held)) (fun t => t.getKey 3 == .released) = true := by
  decide

/-- DR15, KT23. -/
theorem test_query_and_frame_reset :
    reply .dirtyQuery { State.reset with dirty := true } = .wasUpdated true ∧
    answers (transact .dirtyQuery { State.reset with dirty := true }) (fun t => !t.dirty) = true ∧
    answers (transact .frameReset (waitingFor3 true .pressed)) (fun t => !t.keyFrame && t.getKey 7 == .pressed) = true := by
  decide

/-- LOAD puts the ROM at 0x200, and the next step of the schedule runs its first instruction. -/
theorem test_load :
    answers (step { State.reset with schedule := [.load [0x6A, 0x5B], .tickInstr] })
      (fun t => answers (step t) (fun u => u.getV 0xA == 0x5B && u.pc == 0x202)) = true := by decide

/-- A listed key event reaches the key latch through a step (KT20). -/
theorem test_step_key_event :
    answers (step { State.reset with schedule := [.keyEvent 3 .press, .tickTimer] })
      (fun t => t.getKey 3 == .pressed && t.keyFrame && t.schedule == [.tickTimer]) = true := by decide

/-! ## The statements' hypotheses can be met -/

theorem witness_EncodeOfDecodeIsIdentity : decodeWord 0xD125 = .ok (.drw 1 2 5) := by decide

theorem witness_StepRunsDecodedInstruction :
    let s := (atPc 0xFFE).storeBytes 0xFFE [0x6A, 0x5B]
    let r := { s with schedule := [.tickInstr, .tickTimer] }
    let q := { s with schedule := [.keyEvent 7 .press, .tickTimer] }
    (s.fault = none ∧ s.waiting = false ∧ s.pc.toNat ≤ 0xFFE ∧
      decode [s.readMem s.pc.toNat, s.readMem (s.pc.toNat + 1)] = .ok (.ldImm 0xA 0x5B, []) ∧ s.schedule = []) ∧
    (r.fault = none ∧ r.waiting = false ∧ r.pc.toNat ≤ 0xFFE ∧
      decode [r.readMem r.pc.toNat, r.readMem (r.pc.toNat + 1)] = .ok (.ldImm 0xA 0x5B, []) ∧
      r.schedule = .tickInstr :: [.tickTimer]) ∧
    q.schedule = .keyEvent 7 .press :: [.tickTimer] := by decide

/-- A key-wait, a PC that cannot be fetched from, an invalid word, and a return that fails and a load that does not. -/
theorem witness_TickResultReportsTheError :
    let s := (atPc 0xFFE).storeBytes 0xFFE [0x00, 0xEE]
    let r := (atPc 0xFFE).storeBytes 0xFFE [0x6A, 0x5B]
    ((waitingFor3 true .pressed).fault = none ∧ (waitingFor3 true .pressed).waiting = true) ∧
    ((atPc 0xFFF).fault = none ∧ (atPc 0xFFF).waiting = false ∧ 0xFFE < (atPc 0xFFF).pc.toNat) ∧
    ((atPc 0xFFE).fault = none ∧ (atPc 0xFFE).waiting = false ∧ (atPc 0xFFE).pc.toNat ≤ 0xFFE ∧
      0x0000 = wordOfBytes ((atPc 0xFFE).readMem 0xFFE) ((atPc 0xFFE).readMem 0xFFF) ∧ matchingRows 0x0000 = []) ∧
    (s.fault = none ∧ s.waiting = false ∧ s.pc.toNat ≤ 0xFFE ∧
      0x00EE = wordOfBytes (s.readMem 0xFFE) (s.readMem 0xFFF) ∧ decodeWord 0x00EE = .ok .ret ∧
      answers (exec .ret s) (fun t => t.fault == some .stackUnderflow) = true) ∧
    (r.fault = none ∧ r.waiting = false ∧ r.pc.toNat ≤ 0xFFE ∧
      0x6A5B = wordOfBytes (r.readMem 0xFFE) (r.readMem 0xFFF) ∧ decodeWord 0x6A5B = .ok (.ldImm 0xA 0x5B) ∧
      answers (exec (.ldImm 0xA 0x5B) r) (fun t => t.fault == none) = true) := by decide

theorem witness_FetchIsBigEndianAndBounded : (atPc 0xFFE).pc.toNat ≤ 0xFFE ∧ 0xFFE < (atPc 0xFFF).pc.toNat := by decide

theorem witness_FetchAndDecodeErrorsLatch :
    ((atPc 0xFFF).running ∧ 0xFFE < (atPc 0xFFF).pc.toNat) ∧
    ((atPc 0xFFE).running ∧ (atPc 0xFFE).pc.toNat ≤ 0xFFE ∧
      (0x0000 : Word) = wordOfBytes ((atPc 0xFFE).readMem 0xFFE) ((atPc 0xFFE).readMem 0xFFF) ∧ matchingRows 0x0000 = []) :=
  ⟨⟨⟨rfl, rfl⟩, by decide⟩, ⟨rfl, rfl⟩, by decide, by decide, by decide⟩

theorem witness_FaultedStateIsTerminal :
    let s := State.reset.latch .stackOverflow
    let r := { s with schedule := [.timerRead, .tickInstr] }
    (s.fault = some .stackOverflow ∧ ∀ rest, s.schedule ≠ .fbRead :: rest ∧ s.schedule ≠ .timerRead :: rest) ∧
    (r.fault = some .stackOverflow ∧ r.schedule = .timerRead :: [.tickInstr]) ∧
    Transaction.dirtyQuery ≠ .fbRead ∧ Transaction.dirtyQuery ≠ .timerRead :=
  ⟨⟨rfl, fun _ => ⟨nofun, nofun⟩⟩, ⟨rfl, rfl⟩, nofun, nofun⟩

theorem witness_ErrorsArePrecise : ∃ t, exec .ret State.reset = .next t ∧ t.fault ≠ State.reset.fault :=
  ⟨State.reset.latch .stackUnderflow, rfl, by decide⟩

theorem witness_KeyWaitPollReleasesOnPressEdge :
    let waits := fun s : State => s.schedule = [] ∧ s.fault = none ∧ s.waiting = true
    (waits (waitingFor3 false .pressed) ∧ (waitingFor3 false .pressed).keyFrame = false) ∧
    (waits (waitingFor3 true .held) ∧ ∀ k, (waitingFor3 true .held).getKey k ≠ .pressed) ∧
    (waits (waitingFor3 true .pressed) ∧ (waitingFor3 true .pressed).keyFrame = true ∧
      ∃ k, (waitingFor3 true .pressed).getKey k = .pressed) :=
  ⟨⟨⟨rfl, rfl, rfl⟩, rfl⟩, ⟨⟨rfl, rfl, rfl⟩, by decide⟩, ⟨rfl, rfl, rfl⟩, rfl, 7, by decide +kernel⟩

/-- For each clause an instruction that changes what the clause names; the last clause through its first and its last arm. -/
theorem witness_OnlyNamedInstructionsWriteSpecialState :
    answers (exec (.ldI 0xFFF) State.reset) (fun t => t.i != State.reset.i) = true ∧
    answers (exec (.call 0xFFF) State.reset) (fun t => t.sp != State.reset.sp) = true ∧
    answers (exec (.storeRegs 0) (index 0xFFF [(0, 1)])) (fun t => t.mem != (index 0xFFF [(0, 1)]).mem) = true ∧
    answers (exec .cls State.reset) (fun t => t.dirty != State.reset.dirty) = true ∧
    answers (exec (.ldDtVx 0) (regs [(0, 1)])) (fun t => t.dt != 0) = true ∧
    answers (exec (.ldStVx 0) (regs [(0, 1)])) (fun t => t.st != 0) = true ∧
    answers (exec (.ldVxK 0) State.reset) (fun t => t.waiting != State.reset.waiting) = true ∧
    answers (exec (.rnd 0 0) State.reset) (fun t => t.draws != State.reset.draws) = true ∧
    answers (exec (.addReg 0 1) (regs [(0, 0xFF), (1, 1)])) (fun t => t.getV 0xF != 0) = true ∧
    answers (exec (.loadRegs 0xF) (index 0x000 [])) (fun t => t.getV 0xF != 0) = true := by decide

theorem witness_JpSetsPc : answers (exec (.jp 0xFFF) State.reset) (fun t => t.pc == 0xFFF) = true := by decide

theorem witness_CallPushesOwnAddressOrOverflows : (calls 15 0x200).sp.val < 16 ∧ (calls 16 0x200).sp.val = 16 := by decide

theorem witness_RetPopsOrUnderflows :
    0 < (calls 1 0x200).sp.val ∧ 0 < (calls 16 0x200).sp.val ∧ State.reset.sp.val = 0 := by decide

theorem witness_ReturnResumesBehindCall : (calls 15 0x200).sp.val < 16 := by decide

theorem witness_SeRegSkipsIfEqual : (0x1 : Nibble) ≠ 0 ∧ (0xF : Nibble) ≠ 0 := by decide

theorem witness_SneRegSkipsIfDifferent : (0x1 : Nibble) ≠ 0 ∧ (0xF : Nibble) ≠ 0 := by decide

theorem witness_flag_not_the_destination : (0xE : Nibble) ≠ 0xF ∧ (0x0 : Nibble) ≠ 0xF := by decide

theorem witness_LogicIsBitwiseWithoutFlag : 0 < 8 ∧ 7 < 8 := by decide

theorem witness_RndMasksAFreshByte : (0x7F : Byte).getLsbD 7 = false := by decide

theorem witness_LdBStoresDecimalDigits : (index 0xFFD []).i.toNat + 2 ≤ 0xFFF := by decide

theorem witness_StoreRegsCopiesToMemory :
    (index 0xFF0 []).i.toNat + (0xF : Nibble).toNat ≤ 0xFFF ∧ (0xF : Nibble).toNat ≤ (0xF : Nibble).toNat ∧
    (index 0xFFF []).i.toNat + (0x0 : Nibble).toNat ≤ 0xFFF := by decide

theorem witness_LoadRegsCopiesFromMemory :
    (index 0xFF1 []).i.toNat + (0xE : Nibble).toNat ≤ 0xFFF ∧ (0xE : Nibble).toNat ≤ (0xE : Nibble).toNat ∧
    (0xE : Nibble).toNat < (0xF : Nibble).toNat := by decide

/-- The first bad I of each clause, and an I outside memory. -/
theorem witness_AccessOutsideMemoryTraps :
    0xFFF < (index 0xFFE []).i.toNat + 2 ∧ 0xFFF < (index 0xFF1 []).i.toNat + (0xF : Nibble).toNat ∧
    (0 < (0x2 : Nibble).toNat ∧ 0xFFF < (index 0xFFF []).i.toNat + (0x2 : Nibble).toNat - 1) ∧
    (0 < (0x1 : Nibble).toNat ∧ 0xFFF < (index 0x1000 []).i.toNat + (0x1 : Nibble).toNat - 1) ∧
    (index 0xFFF []).i.toNat ≤ 0xFFF ∧ ¬ (index 0x1000 []).i.toNat ≤ 0xFFF := by decide

/-- The highest PC, with each block at the top of memory. -/
theorem witness_StoredCodeIsFetchedNext :
    (atPc 0xFFC).pc.toNat ≤ 0xFFC ∧ ((atPc 0xFFC).setI 0xFFE).i.toNat + (0x1 : Nibble).toNat ≤ 0xFFF ∧
    ((atPc 0xFFC).setI 0xFF0).i.toNat + (0xF : Nibble).toNat ≤ 0xFFF ∧ ((atPc 0xFFC).setI 0xFFD).i.toNat + 2 ≤ 0xFFF := by
  decide

theorem witness_ClsBlanksAndMarksDirty : 63 < 64 ∧ 31 < 32 := by decide

theorem witness_DrawIsPixelwiseXor :
    ((0x0 : Nibble).toNat = 0 ∨ (index 0xFFFF []).i.toNat + (0x0 : Nibble).toNat - 1 ≤ 0xFFF) ∧
    ((0xF : Nibble).toNat = 0 ∨ (index 0xFF1 []).i.toNat + (0xF : Nibble).toNat - 1 ≤ 0xFFF) ∧ 63 < 64 ∧ 31 < 32 := by
  decide

theorem witness_KeyTestsSkipOrTrap :
    ((regs [(1, 0xF)]).getV 1).toNat = (0xF : KeyIndex).val ∧ 0xF < ((regs [(1, 0x10)]).getV 1).toNat := by decide

theorem witness_host_transactions : State.reset.fault = none ∧ (waitingFor3 true .pressed).fault = none := ⟨rfl, rfl⟩

theorem witness_KeyEventFollowsTable :
    State.reset.getKey 0xF = .released ∧ (key7 .held).getKey 7 ≠ .released ∧ (key7 .pressed).getKey 7 ≠ .released ∧
    (0x0 : KeyIndex) ≠ 0xF := by decide

theorem witness_LoadPlacesRomOrRefuses :
    (List.replicate 3584 (0x12 : Byte)).length ≤ 3584 ∧ 3583 < (List.replicate 3584 (0x12 : Byte)).length ∧
    3584 < (List.replicate 3585 (0x12 : Byte)).length := by
  simp only [List.length_replicate]; decide

theorem witness_HostTransactionsKeepProgramState :
    ∃ t, Transaction.tickTimer ≠ .tickInstr ∧ transact .tickTimer State.reset = .next t := ⟨_, nofun, rfl⟩

theorem witness_ConstructionHoldsFontAndInitMem : (List.replicate 80 (0xFF : Byte)).length = 80 ∧ 79 < 80 ∧ 4095 < 4096 := by simp

/-- A store at the top of memory. -/
theorem witness_StepsKeepMemoryCanonical :
    let s := (index 0xFFF [(0, 0xAA)]).withFetchWord 16 0xF055
    s.mem.wf ∧ answers (step s) (fun t => t.readMem 0xFFF == 0xAA) = true := by decide

/-- A jump to the highest target. -/
theorem witness_StepsKeepPcBounded :
    let s := (regs [(0, 0xFF)]).withFetchWord 16 0xBFFF
    s.pcBounded ∧ answers (step s) (fun t => t.pc == 0x10FE) = true :=
  ⟨⟨by decide, by decide +kernel, fun j _ hj => absurd hj (Nat.not_lt_zero j)⟩, by decide +kernel⟩

theorem witness_HaltedTickIsIdle :
    let s := (atPc 0xFFE).withFetchWord 16 0x1FFE
    s.halted :=
  ⟨rfl, rfl, by decide, 0xFFE, by decide, by decide⟩

/-- One return address held in both, everything above it different. -/
theorem witness_StaleStackIsUnobservable :
    let t := { calls 1 0x200 with stack := (Vector.replicate _ 0x300).set 0 0x200 }
    sameButStaleStack (calls 1 0x200) t ∧ t ≠ calls 1 0x200 := by
  refine ⟨⟨rfl, fun j _ hj => ?_⟩, by decide⟩
  obtain rfl : j = 0 := by simpa [calls] using hj
  rfl

theorem witness_OutputsAreUnobservable :
    sameButOutputs State.reset { State.reset with dirty := true, st := 0xFF } := rfl

end Sys2Proof.Tests
end

section
/-! PROOFS. The four register skips of spec/41_control_flow.md (R65 to R68): each one decodes from its own word, and then only
advances PC, by 4 or by 2. -/

namespace Sys2Proof.Machine

/-! ## What an advance leaves unchanged -/

theorem State.registersKeptBut_advance (s : State) (a : Advance) : registersKeptBut [] s (s.advance a) :=
  fun y _ => s.advance_getV a y

theorem State.unchangedBut_advance (s : State) (a : Advance) : unchangedBut [.pc] s (s.advance a) := by
  intro p hp
  cases p
  case pc => exact absurd (List.mem_singleton_self _) hp
  all_goals simp [Part.same]

/-- What every skip does: PC moves by 4 or by 2, and nothing else changes (40_execution_cycle.md R56). -/
theorem exec_skipIf {i : Instr} {s : State} {c : Bool} (h : exec i s = .next (s.advance (skipIf c))) :
    ∃ t, exec i s = .next t ∧ t.pc = (if c then s.pc + 4 else s.pc + 2) ∧
      registersKeptBut [] s t ∧ unchangedBut [.pc] s t :=
  ⟨_, h, s.advance_pc_skipIf c, s.registersKeptBut_advance _, s.unchangedBut_advance _⟩

/-! ## The four skips as an advance -/

theorem exec_seImm (x : Nibble) (kk : Byte) (s : State) :
    exec (.seImm x kk) s = .next (s.advance (skipIf (s.getV x == kk))) := by
  simp only [exec, execSeImm, immOperand_eq]

theorem exec_sneImm (x : Nibble) (kk : Byte) (s : State) :
    exec (.sneImm x kk) s = .next (s.advance (skipIf (s.getV x != kk))) := by
  simp only [exec, execSneImm, immOperand_eq]

theorem exec_seReg (x y : Nibble) (s : State) :
    exec (.seReg x y) s = .next (s.advance (skipIf (s.getV x == s.getV y))) := rfl

theorem exec_sneReg (x y : Nibble) (s : State) :
    exec (.sneReg x y) s = .next (s.advance (skipIf (s.getV x != s.getV y))) := rfl

/-! ## Decoding groups 3, 4, 5 and 9 -/

theorem decodeWord_wordXKK_3 (x : Nibble) (kk : Byte) : decodeWord (wordXKK 0x3 x kk) = .ok (.seImm x kk) := by
  simp [decodeWord]

theorem decodeWord_wordXKK_4 (x : Nibble) (kk : Byte) : decodeWord (wordXKK 0x4 x kk) = .ok (.sneImm x kk) := by
  simp [decodeWord]

theorem decodeZeroNibble_wordXYN (op x y n : Nibble) (i : Instr) :
    decodeZeroNibble (wordXYN op x y n) i = if n = 0 then .ok i else .error (.invalidOpcode (wordXYN op x y n)) := by
  simp only [decodeZeroNibble, nField_wordXYN]

theorem decodeWord_wordXYN_5 (x y n : Nibble) :
    decodeWord (wordXYN 0x5 x y n) =
      if n = 0 then .ok (.seReg x y) else .error (.invalidOpcode (wordXYN 0x5 x y n)) := by
  simp [decodeWord, decodeZeroNibble_wordXYN]

theorem decodeWord_wordXYN_9 (x y n : Nibble) :
    decodeWord (wordXYN 0x9 x y n) =
      if n = 0 then .ok (.sneReg x y) else .error (.invalidOpcode (wordXYN 0x9 x y n)) := by
  simp [decodeWord, decodeZeroNibble_wordXYN]

/-! ## The statements -/

/-- Settles O18: 3xkk is an advance by the equality of Vx and kk. -/
theorem seImmSkipsIfEqual : Obligations.SeImmSkipsIfEqual := by
  intro s x kk
  obtain ⟨t, ht, hpc, hregs, hrest⟩ := exec_skipIf (exec_seImm x kk s)
  exact ⟨decodeWord_wordXKK_3 x kk, t, ht, by simpa using hpc, hregs, hrest⟩

/-- Settles O19: 4xkk is an advance by the difference of Vx and kk. -/
theorem sneImmSkipsIfDifferent : Obligations.SneImmSkipsIfDifferent := by
  intro s x kk
  obtain ⟨t, ht, hpc, hregs, hrest⟩ := exec_skipIf (exec_sneImm x kk s)
  exact ⟨decodeWord_wordXKK_4 x kk, t, ht, by simpa using hpc, hregs, hrest⟩

/-- Settles O20: group 5 is a skip by the equality of Vx and Vy at low nibble 0, and no instruction at any other. -/
theorem seRegSkipsIfEqual : Obligations.SeRegSkipsIfEqual := by
  intro s x y
  obtain ⟨t, ht, hpc, hregs, hrest⟩ := exec_skipIf (exec_seReg x y s)
  exact ⟨(decodeWord_wordXYN_5 x y 0).trans (if_pos rfl), fun n hn => (decodeWord_wordXYN_5 x y n).trans (if_neg hn),
    t, ht, by simpa using hpc, hregs, hrest⟩

/-- Settles O21: group 9 is a skip by the difference of Vx and Vy at low nibble 0, and no instruction at any other. -/
theorem sneRegSkipsIfDifferent : Obligations.SneRegSkipsIfDifferent := by
  intro s x y
  obtain ⟨t, ht, hpc, hregs, hrest⟩ := exec_skipIf (exec_sneReg x y s)
  exact ⟨(decodeWord_wordXYN_9 x y 0).trans (if_pos rfl), fun n hn => (decodeWord_wordXYN_9 x y n).trans (if_neg hn),
    t, ht, by simpa using hpc, hregs, hrest⟩

end Sys2Proof.Machine
end

section
/-! PROOFS. The loads, the immediate add, and the adds and subtractions with a flag of spec/42_alu.md (R70 to R72, R76, R77, R79):
each one decodes from its own word, and then is a register write, or a result-and-flag write, and an advance by 2. -/

namespace Sys2Proof.Machine

/-! ## What a register write leaves unchanged -/

/-- A register is no `Part`, so a frame that holds from after a register write holds from before it. -/
theorem unchangedBut_of_setV {parts : List Part} {s t : State} {x : Nibble} {b : VByte}
    (h : unchangedBut parts (s.setV x b) t) : unchangedBut parts s t := by
  intro p hp
  have hsame := h p hp
  cases p <;> exact hsame

theorem State.unchangedBut_resultAndFlag (s : State) (x : Nibble) (r : VByte) (f : Bool) :
    unchangedBut [.pc] s (s.resultAndFlag x r f) :=
  unchangedBut_of_setV (unchangedBut_of_setV (State.unchangedBut_advance _ _))

theorem State.registersKeptBut_resultAndFlag (s : State) (x : Nibble) (r : VByte) (f : Bool) :
    registersKeptBut [x, 0xF] s (s.resultAndFlag x r f) := by
  intro y hy
  obtain ⟨hx, hf⟩ : y ≠ x ∧ y ≠ regVF := by simpa using hy
  rw [State.getV_resultAndFlag, if_neg hf, if_neg hx]

/-! ## The two shapes of an arithmetic instruction -/

/-- What an instruction without a flag does: Vx gets the result, and PC moves by 2 (10_state.md R15; 40_execution_cycle.md R56). -/
theorem exec_setV {i : Instr} {s : State} {x : Nibble} {r : VByte} (h : exec i s = .next ((s.setV x r).advance .single)) :
    ∃ t, exec i s = .next t ∧ t.getV x = r ∧ registersKeptBut [x] s t ∧ t.pc = s.pc + 2 ∧ unchangedBut [.pc] s t := by
  refine ⟨_, h, by simp, fun y hy => ?_, by simp, unchangedBut_of_setV (State.unchangedBut_advance _ _)⟩
  have hyx : y ≠ x := by simpa using hy
  simp [hyx]

/-- What an instruction with a flag does: VF gets the flag, and Vx the result unless it is VF (10_state.md R15). -/
theorem exec_resultAndFlag {i : Instr} {s : State} {x : Nibble} {r : VByte} {f : Bool}
    (h : exec i s = .next (s.resultAndFlag x r f)) :
    ∃ t, exec i s = .next t ∧ t.getV 0xF = flagByte f ∧ (x ≠ 0xF → t.getV x = r) ∧
      registersKeptBut [x, 0xF] s t ∧ t.pc = s.pc + 2 ∧ unchangedBut [.pc] s t :=
  ⟨_, h, by simp, fun hx => by rw [State.getV_resultAndFlag, if_neg hx, if_pos rfl],
    s.registersKeptBut_resultAndFlag x r f, s.resultAndFlag_pc x r f, s.unchangedBut_resultAndFlag x r f⟩

/-! ## The flags and the difference as arithmetic on naturals and integers -/

theorem flagByte_carryFlag (a b : VByte) : flagByte (carryFlag a b) = if a.toNat + b.toNat > 0xFF then 1 else 0 := by
  simp [flagByte, carryFlag]

theorem flagByte_noBorrowFlag (a b : VByte) : flagByte (noBorrowFlag a b) = if a.toNat ≥ b.toNat then 1 else 0 := by
  simp [flagByte, noBorrowFlag]

theorem VByte.toNat_sub_int (a b : VByte) : ((a - b).toNat : Int) = (a.toNat - b.toNat : Int) % 256 := by
  have hb : b.toNat < 256 := b.isLt
  have hsub : (a - b).toNat = (256 - b.toNat + a.toNat) % 256 := BitVec.toNat_sub a b
  omega

/-- What both subtractions do, with the minuend and the subtrahend in either order (42_alu.md R77, R79). -/
theorem exec_subtract {i : Instr} {s : State} {x : Nibble} {a b : VByte}
    (h : exec i s = .next (s.resultAndFlag x (a - b) (noBorrowFlag a b))) :
    ∃ t, exec i s = .next t ∧ t.getV 0xF = (if a.toNat ≥ b.toNat then 1 else 0) ∧
      (x ≠ 0xF → ((t.getV x).toNat : Int) = (a.toNat - b.toNat : Int) % 256) ∧
      registersKeptBut [x, 0xF] s t ∧ t.pc = s.pc + 2 ∧ unchangedBut [.pc] s t := by
  obtain ⟨t, ht, hflag, hres, hframe⟩ := exec_resultAndFlag h
  exact ⟨t, ht, hflag.trans (flagByte_noBorrowFlag a b), fun hx => hres hx ▸ VByte.toNat_sub_int a b, hframe⟩

/-! ## The instructions as one of the two shapes -/

theorem exec_ldImm (x : Nibble) (kk : Byte) (s : State) : exec (.ldImm x kk) s = .next ((s.setV x kk).advance .single) := by
  simp only [exec, execLdImm, immOperand_eq]

theorem exec_addImm (x : Nibble) (kk : Byte) (s : State) :
    exec (.addImm x kk) s = .next ((s.setV x (s.getV x + kk)).advance .single) := by
  simp only [exec, execAddImm, immOperand_eq]

theorem exec_ldReg (x y : Nibble) (s : State) : exec (.ldReg x y) s = .next ((s.setV x (s.getV y)).advance .single) := rfl

theorem exec_addReg (x y : Nibble) (s : State) :
    exec (.addReg x y) s = .next (s.resultAndFlag x (s.getV x + s.getV y) (carryFlag (s.getV x) (s.getV y))) := rfl

theorem exec_subReg (x y : Nibble) (s : State) :
    exec (.subReg x y) s = .next (s.resultAndFlag x (s.getV x - s.getV y) (noBorrowFlag (s.getV x) (s.getV y))) := rfl

theorem exec_subn (x y : Nibble) (s : State) :
    exec (.subn x y) s = .next (s.resultAndFlag x (s.getV y - s.getV x) (noBorrowFlag (s.getV y) (s.getV x))) := rfl

/-! ## Decoding groups 6, 7 and 8 -/

theorem decodeWord_wordXKK_6 (x : Nibble) (kk : Byte) : decodeWord (wordXKK 0x6 x kk) = .ok (.ldImm x kk) := by
  simp [decodeWord]

theorem decodeWord_wordXKK_7 (x : Nibble) (kk : Byte) : decodeWord (wordXKK 0x7 x kk) = .ok (.addImm x kk) := by
  simp [decodeWord]

theorem decodeWord_wordXYN_8_0 (x y : Nibble) : decodeWord (wordXYN 0x8 x y 0x0) = .ok (.ldReg x y) := by
  simp [decodeWord, decodeGroup8]

theorem decodeWord_wordXYN_8_4 (x y : Nibble) : decodeWord (wordXYN 0x8 x y 0x4) = .ok (.addReg x y) := by
  simp [decodeWord, decodeGroup8]

theorem decodeWord_wordXYN_8_5 (x y : Nibble) : decodeWord (wordXYN 0x8 x y 0x5) = .ok (.subReg x y) := by
  simp [decodeWord, decodeGroup8]

theorem decodeWord_wordXYN_8_7 (x y : Nibble) : decodeWord (wordXYN 0x8 x y 0x7) = .ok (.subn x y) := by
  simp [decodeWord, decodeGroup8]

/-! ## The statements -/

/-- Settles O22: 6xkk is a register write of kk. -/
theorem ldImmLoadsByte : Obligations.LdImmLoadsByte :=
  fun s x kk => ⟨decodeWord_wordXKK_6 x kk, exec_setV (exec_ldImm x kk s)⟩

/-- Settles O23: 7xkk is a register write of the 8-bit sum of Vx and kk. -/
theorem addImmWrapsWithoutFlag : Obligations.AddImmWrapsWithoutFlag := by
  intro s x kk
  obtain ⟨t, ht, hres, hframe⟩ := exec_setV (exec_addImm x kk s)
  exact ⟨decodeWord_wordXKK_7 x kk, t, ht, hres ▸ BitVec.toNat_add (s.getV x) kk, hframe⟩

/-- Settles O24: 8xy0 is a register write of Vy. -/
theorem ldRegCopies : Obligations.LdRegCopies :=
  fun s x y => ⟨decodeWord_wordXYN_8_0 x y, exec_setV (exec_ldReg x y s)⟩

/-- Settles O26: 8xy4 is a result-and-flag write of the 8-bit sum and its carry. -/
theorem addRegCarriesIntoVf : Obligations.AddRegCarriesIntoVf := by
  intro s x y
  obtain ⟨t, ht, hflag, hres, hframe⟩ := exec_resultAndFlag (exec_addReg x y s)
  exact ⟨decodeWord_wordXYN_8_4 x y, t, ht, hflag.trans (flagByte_carryFlag _ _),
    fun hx => hres hx ▸ BitVec.toNat_add (s.getV x) (s.getV y), hframe⟩

/-- Settles O27: 8xy5 is the subtraction of Vy from Vx. -/
theorem subRegSetsVfOnNoBorrow : Obligations.SubRegSetsVfOnNoBorrow :=
  fun s x y => ⟨decodeWord_wordXYN_8_5 x y, exec_subtract (exec_subReg x y s)⟩

/-- Settles O28: 8xy7 is the subtraction of Vx from Vy. -/
theorem subnSetsVfOnNoBorrow : Obligations.SubnSetsVfOnNoBorrow :=
  fun s x y => ⟨decodeWord_wordXYN_8_7 x y, exec_subtract (exec_subn x y s)⟩

end Sys2Proof.Machine
end

section
/-! PROOFS. The index load of spec/43_index_memory.md (R82): it decodes from its own word, and then is an index write and an
advance by 2. -/

namespace Sys2Proof.Machine

/-! ## What an index write and an advance leave unchanged -/

theorem State.unchangedBut_setI_advance (s : State) (w : IndexWord) (a : Advance) :
    unchangedBut [.index, .pc] s ((s.setI w).advance a) := by
  intro p hp
  cases p
  case index => exact absurd (by decide) hp
  case pc => exact absurd (by decide) hp
  all_goals simp [Part.same]

/-- What an instruction that only writes I does: I gets the value, and PC moves by 2 (40_execution_cycle.md R56). -/
theorem exec_setI {i : Instr} {s : State} {w : IndexWord} (h : exec i s = .next ((s.setI w).advance .single)) :
    ∃ t, exec i s = .next t ∧ t.i = w ∧ registersKeptBut [] s t ∧ t.pc = s.pc + 2 ∧ unchangedBut [.index, .pc] s t :=
  ⟨_, h, State.advance_i _ _, State.registersKeptBut_advance (s.setI w) _, State.advance_pc_single (s.setI w),
    s.unchangedBut_setI_advance w _⟩

/-! ## The index load as an index write -/

theorem exec_ldI (nnn : Addr12) (s : State) :
    exec (.ldI nnn) s = .next ((s.setI (addrOperand nnn)).advance .single) := rfl

/-- The zero-extension to a register of at least 12 bits keeps the address (30_encoding.md R44). -/
theorem toNat_addrOperand {w : Nat} (hw : 12 ≤ w) (nnn : Addr12) : (addrOperand nnn : BitVec w).toNat = nnn.toNat :=
  BitVec.toNat_setWidth_of_le hw

theorem decodeWord_wordNNN_A (nnn : Addr12) : decodeWord (wordNNN 0xA nnn) = .ok (.ldI nnn) := by
  simp [decodeWord]

/-! ## The statement -/

/-- Settles O31: Annn is an index write of the zero-extended nnn. -/
theorem ldISetsIndex : Obligations.LdISetsIndex := by
  intro s nnn
  obtain ⟨t, ht, hi, hframe⟩ := exec_setI (exec_ldI nnn s)
  exact ⟨decodeWord_wordNNN_A nnn, t, ht, hi ▸ toNat_addrOperand (by decide) nnn, hframe⟩

end Sys2Proof.Machine
end

section
/-! PROOFS. The clear of spec/44_display.md (R88) and the host's reads of the display and the timers (R91, R107). The clear decodes
from its own word, and then blanks the screen and advances by 2. Of the reads, only DIRTY_QUERY writes the state. -/

namespace Sys2Proof.Machine

/-! ## The clear -/

/-- The screen blanked and DIRTY set: what 00E0 does before it advances (44_display.md R88). -/
def State.blankScreen (s : State) : State := { s with fb := blankFrame, dirty := true }

theorem exec_cls (s : State) : exec .cls s = .next (s.blankScreen.advance .single) := rfl

theorem decodeWord_00E0 : decodeWord 0x00E0 = .ok .cls := rfl

theorem State.unchangedBut_blankScreen_advance (s : State) (a : Advance) :
    unchangedBut [.pc, .pixels, .dirty] s (s.blankScreen.advance a) := by
  intro p hp
  cases p
  case pc | pixels | dirty => exact absurd (by decide) hp
  all_goals simp [Part.same, State.blankScreen, State.readMem]

/-! ## The host's reads -/

theorem State.tone_eq (s : State) : s.tone = decide (s.st ≠ 0) := by
  rw [decide_not]; rfl

/-- The reply to TIMER_READ carries the tone as the test of ST against 0 (60_exceptions.md R107). -/
theorem reply_timerRead (s : State) : reply .timerRead s = .timers s.dt s.st (decide (s.st ≠ 0)) :=
  congrArg (Reply.timers s.dt s.st) s.tone_eq

theorem reply_dirtyQuery {s : State} (h : s.fault = none) : reply .dirtyQuery s = .wasUpdated s.dirty := by
  simp [reply, h]

theorem transact_dirtyQuery {s : State} (h : s.fault = none) : transact .dirtyQuery s = .next s.clearDirty :=
  unlessFaulted_none h _

theorem State.unchangedBut_clearDirty (s : State) : unchangedBut [.dirty] s s.clearDirty := by
  intro p hp
  cases p
  case dirty => exact absurd (List.mem_singleton_self _) hp
  all_goals simp [Part.same]

/-! ## The statements -/

/-- Settles O39: 00E0 is a blanked screen and an advance. -/
theorem clsBlanksAndMarksDirty : Obligations.ClsBlanksAndMarksDirty :=
  fun s => ⟨decodeWord_00E0, _, exec_cls s, fun px py _ _ => get_blankFrame px py, State.advance_dirty _ _,
    State.registersKeptBut_advance s.blankScreen _, State.advance_pc_single s.blankScreen, s.unchangedBut_blankScreen_advance _⟩

/-- Settles O49: FB_READ and TIMER_READ go on in the same state, and DIRTY_QUERY in the state with DIRTY cleared. -/
theorem outputsReturnDisplayAndTimers : Obligations.OutputsReturnDisplayAndTimers :=
  fun s hfault => ⟨rfl, rfl, reply_timerRead s, rfl, reply_dirtyQuery hfault, _, transact_dirtyQuery hfault,
    s.clearDirty_dirty, fun y _ => s.clearDirty_getV y, s.unchangedBut_clearDirty⟩

end Sys2Proof.Machine
end

section
/-! PROOFS. The three timer loads of spec/45_timers_keys.md (R95 to R97): each one decodes from its own word, and then is a write of
Vx, of DT or of ST, and an advance by 2. -/

namespace Sys2Proof.Machine

/-! ## The writes of the two timers -/

/-- The delay timer written: what Fx15 does before it advances (45_timers_keys.md R96). -/
def State.setDt (s : State) (b : VByte) : State := { s with dt := b }

/-- The sound timer written: what Fx18 does before it advances (45_timers_keys.md R97). -/
def State.setSt (s : State) (b : VByte) : State := { s with st := b }

@[simp] theorem State.setDt_dt (s : State) (b : VByte) : (s.setDt b).dt = b := rfl
@[simp] theorem State.setSt_st (s : State) (b : VByte) : (s.setSt b).st = b := rfl

theorem State.unchangedBut_setDt (s : State) (b : VByte) : unchangedBut [.delay] s (s.setDt b) := by
  intro p hp
  cases p
  case delay => exact absurd (List.mem_singleton_self _) hp
  all_goals simp [Part.same, State.setDt, State.readMem]

theorem State.unchangedBut_setSt (s : State) (b : VByte) : unchangedBut [.sound] s (s.setSt b) := by
  intro p hp
  cases p
  case sound => exact absurd (List.mem_singleton_self _) hp
  all_goals simp [Part.same, State.setSt, State.readMem]

/-- An advance after a change adds PC, and nothing else, to what the change may touch (40_execution_cycle.md R56). -/
theorem unchangedBut_pc_cons_advance {parts : List Part} {s u : State} (h : unchangedBut parts s u) (a : Advance) :
    unchangedBut (.pc :: parts) s (u.advance a) := by
  intro p hp
  obtain ⟨hpc, hparts⟩ : p ≠ .pc ∧ p ∉ parts := by simpa using hp
  have hsame := h p hparts
  cases p
  case pc => exact absurd rfl hpc
  all_goals simpa [Part.same] using hsame

/-! ## The timer loads as a write and an advance -/

theorem exec_ldVxDt (x : Nibble) (s : State) : exec (.ldVxDt x) s = .next ((s.setV x s.dt).advance .single) := by
  simp only [exec, execLdVxDt, BitVec.setWidth_eq]

theorem exec_ldDtVx (x : Nibble) (s : State) : exec (.ldDtVx x) s = .next ((s.setDt (s.getV x)).advance .single) := by
  simp only [exec, execLdDtVx, State.setDt, BitVec.setWidth_eq]

theorem exec_ldStVx (x : Nibble) (s : State) : exec (.ldStVx x) s = .next ((s.setSt (s.getV x)).advance .single) := by
  simp only [exec, execLdStVx, State.setSt, BitVec.setWidth_eq]

/-! ## Decoding the timer loads of group F -/

theorem decodeWord_wordXKK_F_07 (x : Nibble) : decodeWord (wordXKK 0xF x 0x07) = .ok (.ldVxDt x) := by
  simp [decodeWord, decodeGroupF]

theorem decodeWord_wordXKK_F_15 (x : Nibble) : decodeWord (wordXKK 0xF x 0x15) = .ok (.ldDtVx x) := by
  simp [decodeWord, decodeGroupF]

theorem decodeWord_wordXKK_F_18 (x : Nibble) : decodeWord (wordXKK 0xF x 0x18) = .ok (.ldStVx x) := by
  simp [decodeWord, decodeGroupF]

/-! ## The statements -/

/-- Settles O43: Fx07 is a register write of DT. -/
theorem ldVxDtReadsDelay : Obligations.LdVxDtReadsDelay :=
  fun s x => ⟨decodeWord_wordXKK_F_07 x, exec_setV (exec_ldVxDt x s)⟩

/-- Settles O44: Fx15 is a write of Vx to DT and an advance. -/
theorem ldDtVxSetsDelay : Obligations.LdDtVxSetsDelay :=
  fun s x => ⟨decodeWord_wordXKK_F_15 x, _, exec_ldDtVx x s, (State.advance_dt _ _).trans (s.setDt_dt _),
    State.registersKeptBut_advance (s.setDt _) _, State.advance_pc_single (s.setDt _),
    unchangedBut_pc_cons_advance (s.unchangedBut_setDt _) _⟩

/-- Settles O45: Fx18 is a write of Vx to ST and an advance, and the tone is the test of the new ST against 0. -/
theorem ldStVxSetsSound : Obligations.LdStVxSetsSound := by
  intro s x
  have hst : ((s.setSt (s.getV x)).advance .single).st = s.getV x :=
    (State.advance_st _ _).trans (s.setSt_st _)
  have htone : ((s.setSt (s.getV x)).advance .single).tone = true ↔ s.getV x ≠ 0 := by
    rw [State.tone_eq, hst, decide_eq_true_iff]
  exact ⟨decodeWord_wordXKK_F_18 x, _, exec_ldStVx x s, hst, htone,
    State.registersKeptBut_advance (s.setSt _) _, State.advance_pc_single (s.setSt _),
    unchangedBut_pc_cons_advance (s.unchangedBut_setSt _) _⟩

end Sys2Proof.Machine
end

section
/-! PROOFS. The host's FRAME_RESET of spec/60_exceptions.md (R110): in a state without an error it goes on, with KEY_FRAME cleared and
every other part kept. -/

namespace Sys2Proof.Machine

theorem transact_frameReset {s : State} (h : s.fault = none) : transact .frameReset s = .next s.clearKeyFrame :=
  unlessFaulted_none h _

theorem State.unchangedBut_clearKeyFrame (s : State) : unchangedBut [.keyFrame] s s.clearKeyFrame := by
  intro p hp
  cases p
  case keyFrame => exact absurd (List.mem_singleton_self _) hp
  all_goals simp [Part.same]

/-- Settles O48: FRAME_RESET goes on in the state with KEY_FRAME cleared. -/
theorem frameResetClearsFrameFlag : Obligations.FrameResetClearsFrameFlag :=
  fun s hfault => ⟨_, transact_frameReset hfault, s.clearKeyFrame_keyFrame, fun y _ => s.clearKeyFrame_getV y,
    s.unchangedBut_clearKeyFrame⟩

end Sys2Proof.Machine
end

section
/-! PROOFS. The encoder and the decoder of spec/30_encoding.md are inverse to each other, and the decoder agrees with the masks of
Table O (R45 to R47). -/

namespace Sys2Proof

/-! ## Decoding what was encoded -/

/-- Each instruction's word has the fields its group is decoded on. -/
theorem decodeWord_encodeWord (i : Instr) : decodeWord (encodeWord i) = .ok i := by
  cases i
  case cls | ret => rfl
  all_goals simp [encodeWord, decodeWord, decodeZeroNibble, decodeGroup8, decodeGroupE, decodeGroupF]

/-- Settles O1: the bytes of a word decode as the word does. -/
theorem decodeOfEncodeIsIdentity : Obligations.DecodeOfEncodeIsIdentity := by
  intro i rest
  rw [encode, decode_bytesOfWord, decodeWord_encodeWord]
  rfl

/-! ## Encoding what was decoded -/

theorem wordNNN_of_opField {w : Word} {op : Nibble} (hop : opField w = op) : wordNNN op (nnnField w) = w :=
  hop ▸ wordNNN_fields w

theorem wordXKK_of_opField {w : Word} {op : Nibble} (hop : opField w = op) : wordXKK op (xField w) (kkField w) = w :=
  hop ▸ wordXKK_fields w

theorem wordXKK_of_opField_kkField {w : Word} {op : Nibble} {kk : Byte} (hop : opField w = op) (hkk : kkField w = kk) :
    wordXKK op (xField w) kk = w :=
  hkk ▸ wordXKK_of_opField hop

theorem wordXYN_of_opField_nField {w : Word} {op n : Nibble} (hop : opField w = op) (hn : nField w = n) :
    wordXYN op (xField w) (yField w) n = w :=
  hop ▸ hn ▸ wordXYN_fields w

theorem encodeWord_of_decodeGroup0 {w : Word} {i : Instr} (h : decodeGroup0 w = .ok i) : encodeWord i = w := by
  unfold decodeGroup0 at h
  split_ifs at h with hret hcls
  · cases h; exact hret.symm
  · cases h; exact hcls.symm

theorem decodeZeroNibble_ok {w : Word} {i j : Instr} (h : decodeZeroNibble w j = .ok i) : nField w = 0 ∧ i = j := by
  unfold decodeZeroNibble at h
  split_ifs at h with hn
  cases h
  exact ⟨hn, rfl⟩

theorem encodeWord_of_decodeGroup8 {w : Word} {i : Instr} (hop : opField w = 0x8) (h : decodeGroup8 w = .ok i) :
    encodeWord i = w := by
  unfold decodeGroup8 at h
  split at h <;> cases h <;> exact wordXYN_of_opField_nField hop (BitVec.eq_of_toNat_eq ‹_›)

theorem encodeWord_of_decodeGroupE {w : Word} {i : Instr} (hop : opField w = 0xE) (h : decodeGroupE w = .ok i) :
    encodeWord i = w := by
  unfold decodeGroupE at h
  split at h <;> cases h <;> exact wordXKK_of_opField_kkField hop (BitVec.eq_of_toNat_eq ‹_›)

theorem encodeWord_of_decodeGroupF {w : Word} {i : Instr} (hop : opField w = 0xF) (h : decodeGroupF w = .ok i) :
    encodeWord i = w := by
  unfold decodeGroupF at h
  split at h <;> cases h <;> exact wordXKK_of_opField_kkField hop (BitVec.eq_of_toNat_eq ‹_›)

/-- Settles O2: within each group, the fields the decoder read and those it took put the word together again. -/
theorem encodeOfDecodeIsIdentity : Obligations.EncodeOfDecodeIsIdentity := by
  intro w i h
  have hop : ∀ op : Nibble, (opField w).toNat = op.toNat → opField w = op := fun _ => BitVec.eq_of_toNat_eq
  unfold decodeWord at h
  split at h
  case h_1 => exact encodeWord_of_decodeGroup0 h
  case h_6 => obtain ⟨hn, rfl⟩ := decodeZeroNibble_ok h; exact wordXYN_of_opField_nField (hop 0x5 ‹_›) hn
  case h_9 => exact encodeWord_of_decodeGroup8 (hop 0x8 ‹_›) h
  case h_10 => obtain ⟨hn, rfl⟩ := decodeZeroNibble_ok h; exact wordXYN_of_opField_nField (hop 0x9 ‹_›) hn
  case h_14 => cases h; exact wordXYN_of_opField_nField (hop 0xD ‹_›) rfl
  case h_15 => exact encodeWord_of_decodeGroupE (hop 0xE ‹_›) h
  case h_16 =>
    have : (opField w).toNat < 16 := (opField w).isLt
    have hlast : (opField w).toNat = 0xF := by simp only [imp_false] at *; omega
    exact encodeWord_of_decodeGroupF (hop 0xF hlast) h
  case h_2 | h_3 | h_11 | h_12 => cases h; exact wordNNN_of_opField (hop _ ‹_›)
  all_goals (cases h; exact wordXKK_of_opField (hop _ ‹_›))

/-! ## The decoder against the masks of Table O -/

/-- The two rows differ in a bit that both masks look at, so no word matches both. -/
def OpcodeRow.disjoint (r r' : OpcodeRow) : Prop := r.pattern &&& r'.mask ≠ r'.pattern &&& r.mask

theorem OpcodeRow.not_matchesWord_of_disjoint {r r' : OpcodeRow} {w : Word} (hd : r.disjoint r')
    (h : r.matchesWord w = true) : r'.matchesWord w = false := by
  rw [Bool.eq_false_iff]
  intro h'
  have hr : w &&& r.mask = r.pattern := by simpa [OpcodeRow.matchesWord] using h
  have hr' : w &&& r'.mask = r'.pattern := by simpa [OpcodeRow.matchesWord] using h'
  refine hd ?_
  rw [← hr, ← hr', BitVec.and_assoc, BitVec.and_assoc, BitVec.and_comm r.mask]

theorem opcodeRows_pairwise_disjoint : opcodeRows.Pairwise OpcodeRow.disjoint := by
  unfold OpcodeRow.disjoint
  decide

/-- Of rows no word matches two of, a word that matches one matches that one only. -/
theorem filter_matchesWord_eq_singleton {rows : List OpcodeRow} (hd : rows.Pairwise OpcodeRow.disjoint) {r : OpcodeRow}
    (hr : r ∈ rows) {w : Word} (hw : r.matchesWord w = true) : rows.filter (fun r => r.matchesWord w) = [r] := by
  induction rows with
  | nil => cases hr
  | cons r' rows ih =>
    obtain ⟨hhead, htail⟩ := List.pairwise_cons.1 hd
    obtain rfl | hr := List.mem_cons.1 hr
    · have hrest : rows.filter (fun r => r.matchesWord w) = [] :=
        List.filter_eq_nil_iff.2 fun q hq => by simp [OpcodeRow.not_matchesWord_of_disjoint (hhead q hq) hw]
      rw [List.filter_cons_of_pos (by exact hw), hrest]
    · have hr' : r'.matchesWord w ≠ true := fun h' =>
        absurd hw (by simp [OpcodeRow.not_matchesWord_of_disjoint (hhead r hr) h'])
      rw [List.filter_cons_of_neg (by exact hr'), ih htail hr]

/-- Every instruction's word matches its own row of Table O (30_encoding.md R46). -/
theorem encodesOwnRow : ∀ i : Instr, Laws.EncodesOwnRow.Statement i
  | .cls => Laws.EncodesOwnRow.cls
  | .ret => Laws.EncodesOwnRow.ret
  | .jp nnn => Laws.EncodesOwnRow.jp nnn
  | .call nnn => Laws.EncodesOwnRow.call nnn
  | .seImm x kk => Laws.EncodesOwnRow.seImm x kk
  | .sneImm x kk => Laws.EncodesOwnRow.sneImm x kk
  | .seReg x y => Laws.EncodesOwnRow.seReg x y
  | .ldImm x kk => Laws.EncodesOwnRow.ldImm x kk
  | .addImm x kk => Laws.EncodesOwnRow.addImm x kk
  | .ldReg x y => Laws.EncodesOwnRow.ldReg x y
  | .orReg x y => Laws.EncodesOwnRow.orReg x y
  | .andReg x y => Laws.EncodesOwnRow.andReg x y
  | .xorReg x y => Laws.EncodesOwnRow.xorReg x y
  | .addReg x y => Laws.EncodesOwnRow.addReg x y
  | .subReg x y => Laws.EncodesOwnRow.subReg x y
  | .shr x y => Laws.EncodesOwnRow.shr x y
  | .subn x y => Laws.EncodesOwnRow.subn x y
  | .shl x y => Laws.EncodesOwnRow.shl x y
  | .sneReg x y => Laws.EncodesOwnRow.sneReg x y
  | .ldI nnn => Laws.EncodesOwnRow.ldI nnn
  | .jpV0 nnn => Laws.EncodesOwnRow.jpV0 nnn
  | .rnd x kk => Laws.EncodesOwnRow.rnd x kk
  | .drw x y n => Laws.EncodesOwnRow.drw x y n
  | .skp x => Laws.EncodesOwnRow.skp x
  | .sknp x => Laws.EncodesOwnRow.sknp x
  | .ldVxDt x => Laws.EncodesOwnRow.ldVxDt x
  | .ldVxK x => Laws.EncodesOwnRow.ldVxK x
  | .ldDtVx x => Laws.EncodesOwnRow.ldDtVx x
  | .ldStVx x => Laws.EncodesOwnRow.ldStVx x
  | .addI x => Laws.EncodesOwnRow.addI x
  | .ldF x => Laws.EncodesOwnRow.ldF x
  | .ldB x => Laws.EncodesOwnRow.ldB x
  | .storeRegs x => Laws.EncodesOwnRow.storeRegs x
  | .loadRegs x => Laws.EncodesOwnRow.loadRegs x

@[simp] theorem Nibble.and_ones (x : Nibble) : x &&& 15#4 = x := BitVec.and_allOnes

theorem decodeGroup0_00E0 : decodeGroup0 (wordXYN 0#4 0#4 14#4 0#4) = .ok .cls := rfl
theorem decodeGroup0_00EE : decodeGroup0 (wordXYN 0#4 0#4 14#4 14#4) = .ok .ret := rfl

/-- A word that matches a row of Table O has the fields one group of the decoder asks for. -/
theorem decodeWord_of_matchesWord {r : OpcodeRow} (hr : r ∈ opcodeRows) {w : Word} (hw : r.matchesWord w = true) :
    ∃ i, decodeWord w = .ok i := by
  rw [← wordXYN_fields w] at hw ⊢
  generalize opField w = op, xField w = x, yField w = y, nField w = n at hw ⊢
  rw [OpcodeRow.matchesWord_wordXYN] at hw
  simp only [opcodeRows, opcodeRowsLow, opcodeRowsMid, opcodeRowsHigh, List.cons_append, List.nil_append, List.mem_cons,
    List.not_mem_nil, or_false] at hr
  repeat' (obtain rfl | hr := hr)
  all_goals
    simp [opField, xField, yField, nField] at hw
    simp [hw, decodeWord, decodeGroup0_00E0, decodeGroup0_00EE, decodeZeroNibble, decodeGroup8, decodeGroupE, decodeGroupF,
      kkField_wordXYN]

/-- The only row that a decoded word matches is its instruction's. -/
theorem matchingRows_of_decodeWord {w : Word} {i : Instr} (h : decodeWord w = .ok i) :
    ∃ r, matchingRows w = [r] ∧ r.mnemonic = i.mnemonic := by
  obtain ⟨r, hr, hname, hmask⟩ := encodesOwnRow i
  rw [encodeOfDecodeIsIdentity w i h] at hmask
  have hw : r.matchesWord w = true := beq_iff_eq.2 hmask
  exact ⟨r, filter_matchesWord_eq_singleton opcodeRows_pairwise_disjoint hr hw, hname⟩

/-- No row matches a word that the decoder rejects. -/
theorem matchingRows_of_decodeWord_error {w : Word} {e : DecodeError} (h : decodeWord w = .error e) :
    matchingRows w = [] := by
  refine List.filter_eq_nil_iff.2 fun r hr hw => ?_
  obtain ⟨i, hi⟩ := decodeWord_of_matchesWord hr hw
  cases h.symm.trans hi

/-- Settles O3: a decoded word matches its instruction's row, which no other row overlaps, and a word that matches a row decodes. -/
theorem decodeFollowsOpcodeMap : Obligations.DecodeFollowsOpcodeMap := by
  intro w
  cases h : decodeWord w with
  | ok i =>
    obtain ⟨r, hr, hname⟩ := matchingRows_of_decodeWord h
    exact .inl ⟨i, r, rfl, hr, hname⟩
  | error e => exact .inr ⟨matchingRows_of_decodeWord_error h, congrArg _ (Machine.decodeWord_error h)⟩

/-- A word that no row of Table O matches is rejected (30_encoding.md R47). -/
theorem decodeWord_of_matchingRows_nil {w : Word} (h : matchingRows w = []) : decodeWord w = .error (.invalidOpcode w) := by
  obtain ⟨i, r, -, hr, -⟩ | ⟨-, herr⟩ := decodeFollowsOpcodeMap w
  · cases h.symm.trans hr
  · exact herr

/-- Settles O4: the decoder run on each of the words. -/
theorem sampleWordsDecode : Obligations.SampleWordsDecode := by
  unfold Obligations.SampleWordsDecode
  decide

end Sys2Proof
end

section
/-! PROOFS. What every instruction leaves unchanged, said once (spec/10_state.md sections 2 to 7): a table of the parts of the state and
of the registers each instruction may write, and the theorem that an instruction goes on, with an error latched and nothing else
changed or within its row of the table. -/

namespace Sys2Proof

/-- The parts of the state that an instruction may write (41_control_flow.md to 45_timers_keys.md). -/
def Instr.writes : Instr → List Machine.Part
  | .cls | .drw _ _ _ => [.pc, .pixels, .dirty]
  | .ret | .call _ => [.pc, .callStack]
  | .ldI _ | .addI _ | .ldF _ => [.index, .pc]
  | .rnd _ _ => [.pc, .draws]
  | .ldVxK _ => [.keyWait]
  | .ldDtVx _ => [.pc, .delay]
  | .ldStVx _ => [.pc, .sound]
  | .ldB _ | .storeRegs _ => [.pc, .memory]
  | .jp _ | .jpV0 _ | .seImm _ _ | .sneImm _ _ | .seReg _ _ | .sneReg _ _ | .ldImm _ _ | .addImm _ _ | .ldReg _ _ | .orReg _ _
  | .andReg _ _ | .xorReg _ _ | .addReg _ _ | .subReg _ _ | .shr _ _ | .subn _ _ | .shl _ _ | .skp _ | .sknp _ | .ldVxDt _
  | .loadRegs _ => [.pc]

/-- The general registers that an instruction may write (10_state.md R13 to R15). -/
def Instr.destinations : Instr → List Nibble
  | .ldImm x _ | .addImm x _ | .ldReg x _ | .orReg x _ | .andReg x _ | .xorReg x _ | .rnd x _ | .ldVxDt x => [x]
  | .addReg x _ | .subReg x _ | .shr x _ | .subn x _ | .shl x _ => [x, 0xF]
  | .drw _ _ _ | .addI _ => [0xF]
  | .loadRegs x => (List.range (x.toNat + 1)).map (BitVec.ofNat 4)
  | .cls | .ret | .jp _ | .call _ | .seImm _ _ | .sneImm _ _ | .seReg _ _ | .sneReg _ _ | .ldI _ | .jpV0 _ | .skp _ | .sknp _
  | .ldVxK _ | .ldDtVx _ | .ldStVx _ | .ldF _ | .ldB _ | .storeRegs _ => []

/-- V0 to Vx are the registers of a block load. -/
theorem Instr.mem_destinations_loadRegs (x y : Nibble) : y ∈ (Instr.loadRegs x).destinations ↔ y.toNat ≤ x.toNat := by
  simp only [Instr.destinations, List.mem_map, List.mem_range]
  constructor
  · rintro ⟨k, hk, rfl⟩
    exact (Nat.mod_le _ _).trans (Nat.le_of_lt_succ hk)
  · exact fun h => ⟨y.toNat, Nat.lt_succ_of_le h, BitVec.ofNat_toNat 4 y ▸ BitVec.setWidth_eq y⟩

end Sys2Proof

namespace Sys2Proof.Machine

/-! ## Frames put together -/

theorem unchangedBut_refl (parts : List Part) (s : State) : unchangedBut parts s s := by
  intro p _
  cases p <;> simp [Part.same]

theorem Part.same_trans {p : Part} {s t u : State} (h : p.same s t) (h' : p.same t u) : p.same s u := by
  cases p
  case callStack | keyWait => exact ⟨h'.1.trans h.1, h'.2.trans h.2⟩
  case memory => exact fun a => (h' a).trans (h a)
  all_goals exact Eq.trans h' h

/-- Nothing changed but, perhaps, the parts and the registers listed. Memory, when it is not listed, is the same list of cells. -/
structure Frame (ps : List Part) (xs : List Nibble) (s t : State) : Prop where
  parts     : unchangedBut ps s t
  registers : registersKeptBut xs s t
  memory    : Part.memory ∉ ps → t.mem = s.mem

theorem Frame.mono {ps qs : List Part} {xs : List Nibble} {s t : State} (h : Frame ps xs s t) (hsub : ps ⊆ qs) :
    Frame qs xs s t where
  parts p hp := h.parts p fun hmem => hp (hsub hmem)
  registers := h.registers
  memory hm := h.memory fun hmem => hm (hsub hmem)

theorem Frame.trans {ps qs : List Part} {xs ys : List Nibble} {s t u : State} (h : Frame ps xs s t) (h' : Frame qs ys t u) :
    Frame (ps ++ qs) (xs ++ ys) s u where
  parts p hp := Part.same_trans (h.parts p fun hmem => hp (List.mem_append_left qs hmem))
    (h'.parts p fun hmem => hp (List.mem_append_right ps hmem))
  registers y hy := (h'.registers y fun hmem => hy (List.mem_append_right xs hmem)).trans
    (h.registers y fun hmem => hy (List.mem_append_left ys hmem))
  memory hm := (h'.memory fun hmem => hm (List.mem_append_right ps hmem)).trans
    (h.memory fun hmem => hm (List.mem_append_left qs hmem))

/-- An advance adds PC to what a change may touch (40_execution_cycle.md R56). -/
theorem Frame.advance {ps : List Part} {xs : List Nibble} {s u : State} (h : Frame ps xs s u) (a : Advance) :
    Frame (.pc :: ps) xs s (u.advance a) where
  parts := unchangedBut_pc_cons_advance h.parts a
  registers y hy := (u.advance_getV a y).trans (h.registers y hy)
  memory hm := (u.advance_mem a).trans (h.memory fun hmem => hm (List.mem_cons_of_mem _ hmem))

/-! ## The frame of each operation on the state -/

theorem Frame.refl (s : State) : Frame [] [] s s := ⟨unchangedBut_refl _ s, fun _ _ => rfl, fun _ => rfl⟩

theorem State.frame_setV (s : State) (x : Nibble) (b : VByte) : Frame [] [x] s (s.setV x b) where
  parts := unchangedBut_of_setV (unchangedBut_refl _ _)
  registers y hy := by rw [State.getV_setV, if_neg (List.ne_of_not_mem_cons hy)]
  memory _ := rfl

theorem State.frame_setFlag (s : State) (b : Bool) : Frame [] [0xF] s (s.setFlag b) := s.frame_setV regVF (flagByte b)

theorem State.frame_resultAndFlag (s : State) (x : Nibble) (r : VByte) (f : Bool) :
    Frame [.pc] [x, 0xF] s (s.resultAndFlag x r f) :=
  ((s.frame_setV x r).trans (State.frame_setFlag _ f)).advance .single

theorem State.frame_setI (s : State) (w : IndexWord) : Frame [.index] [] s (s.setI w) where
  parts p hp := by cases p <;> simp_all [Part.same]
  registers _ _ := rfl
  memory _ := rfl

theorem State.frame_setPc (s : State) (w : PcWord) : Frame [.pc] [] s (s.setPc w) where
  parts p hp := by cases p <;> simp_all [Part.same]
  registers _ _ := rfl
  memory _ := rfl

theorem State.frame_push (s : State) (w : StackWord) (h : s.sp.val < Params.stackCapacity) :
    Frame [.callStack] [] s (s.push w h) where
  parts p hp := by cases p <;> simp_all [Part.same]
  registers _ _ := rfl
  memory _ := rfl

theorem State.frame_popToPc (s : State) (h : 0 < s.sp.val) : Frame [.callStack, .pc] [] s (s.popToPc h) where
  parts p hp := by cases p <;> simp_all [Part.same]
  registers _ _ := rfl
  memory _ := rfl

theorem State.frame_storeBytes (s : State) (base : Nat) (bs : List Byte) : Frame [.memory] [] s (s.storeBytes base bs) where
  parts p hp := by cases p <;> simp_all [Part.same]
  registers _ _ := rfl
  memory hm := absurd (List.mem_singleton_self _) hm

theorem State.frame_nextDraw (s : State) : Frame [.draws] [] s s.nextDraw where
  parts p hp := by cases p <;> simp_all [Part.same]
  registers _ _ := rfl
  memory _ := rfl

theorem State.frame_putCanvas (s : State) (c : Canvas) : Frame [.pixels, .dirty] [0xF] s (s.putCanvas c) where
  parts p hp := by cases p <;> simp_all [Part.same]
  registers y hy := by rw [State.getV_putCanvas, if_neg (List.ne_of_not_mem_cons hy)]
  memory _ := rfl

theorem State.frame_blankScreen (s : State) : Frame [.pixels, .dirty] [] s s.blankScreen where
  parts p hp := by cases p <;> simp_all [Part.same, State.blankScreen, State.readMem]
  registers _ _ := rfl
  memory _ := rfl

theorem State.frame_setDt (s : State) (b : VByte) : Frame [.delay] [] s (s.setDt b) :=
  ⟨s.unchangedBut_setDt b, fun _ _ => rfl, fun _ => rfl⟩

theorem State.frame_setSt (s : State) (b : VByte) : Frame [.sound] [] s (s.setSt b) :=
  ⟨s.unchangedBut_setSt b, fun _ _ => rfl, fun _ => rfl⟩

/-- V0 to Vx are the registers a block load may write. -/
theorem State.frame_setRegs (s : State) {bs : List Byte} {x : Nibble} (h : bs.length = x.toNat + 1) :
    Frame [] (Instr.loadRegs x).destinations s (s.setRegs bs) where
  parts p _ := by cases p <;> simp [Part.same]
  registers y hy := by
    have hlen : bs.length ≤ y.toNat := by
      rw [Instr.mem_destinations_loadRegs] at hy
      omega
    rw [State.getV_setRegs, List.getD_eq_default _ _ hlen]
  memory _ := s.setRegs_mem bs

/-- The key-wait begun: what Fx0A does (45_timers_keys.md R94). -/
def State.startKeyWait (s : State) (x : Nibble) : State := { s with waiting := true, waitReg := x }

theorem State.frame_startKeyWait (s : State) (x : Nibble) : Frame [.keyWait] [] s (s.startKeyWait x) where
  parts p hp := by cases p <;> simp_all [Part.same, State.startKeyWait, State.readMem]
  registers _ _ := rfl
  memory _ := rfl

/-! ## Going on -/

/-- The answer is a next state: the state with an error latched, or one that has the property. -/
def goesOn (s : State) (P : State → Prop) (o : Outcome) : Prop := ∃ t, o = .next t ∧ ((∃ e, t = s.latch e) ∨ P t)

theorem goesOn_next {s t : State} {P : State → Prop} (h : P t) : goesOn s P (.next t) := ⟨t, rfl, .inr h⟩

theorem goesOn_raise (s : State) (P : State → Prop) (e : Error) : goesOn s P (raise e s) := ⟨_, raise_eq e s, .inl ⟨e, rfl⟩⟩

theorem goesOn_guardAccess {s t : State} {P : State → Prop} (n : Nat) (h : P t) : goesOn s P (guardAccess s n t) := by
  obtain ⟨-, hg⟩ | ⟨-, -, hg⟩ := guardAccess_cases s n t <;> rw [hg]
  · exact goesOn_next h
  · exact goesOn_raise _ _ _

theorem goesOn_keyTest {s : State} {P : State → Prop} (x : Nibble) (want : Bool) (h : ∀ c, P (s.advance (skipIf c))) :
    goesOn s P (keyTest x want s) := by
  obtain ⟨k, -, hk⟩ | ⟨-, hk⟩ := keyTest_cases x want s <;> rw [hk]
  · exact goesOn_next (h _)
  · exact goesOn_raise _ _ _

theorem goesOn_ret (s : State) : goesOn s (Frame [.pc, .callStack] [] s) (exec .ret s) := by
  by_cases h : 0 < s.sp.val
  · rw [execRet_pop h]
    exact goesOn_next (((s.frame_popToPc h).advance .single).mono (by decide))
  · rw [execRet_underflow (by omega)]
    exact goesOn_raise _ _ _

theorem goesOn_call (nnn : Addr12) (s : State) : goesOn s (Frame [.pc, .callStack] [] s) (exec (.call nnn) s) := by
  by_cases h : s.sp.val < 16
  · rw [execCall_push nnn h]
    exact goesOn_next (((s.frame_push s.pc h).trans (State.frame_setPc _ _)).mono (by decide))
  · rw [execCall_overflow nnn (by have := s.sp_le; omega)]
    exact goesOn_raise _ _ _

/-- Every instruction goes on, and without an error it writes only what the tables name. -/
theorem exec_goesOn (i : Instr) (s : State) : goesOn s (Frame i.writes i.destinations s) (exec i s) := by
  cases i with
  | cls => exact goesOn_next (s.frame_blankScreen.advance .single)
  | ret => exact goesOn_ret s
  | jp nnn => exact goesOn_next (s.frame_setPc _)
  | call nnn => exact goesOn_call nnn s
  | seImm x kk => exact goesOn_next ((Frame.refl s).advance _)
  | sneImm x kk => exact goesOn_next ((Frame.refl s).advance _)
  | seReg x y => exact goesOn_next ((Frame.refl s).advance _)
  | ldImm x kk => exact goesOn_next ((s.frame_setV x _).advance .single)
  | addImm x kk => exact goesOn_next ((s.frame_setV x _).advance .single)
  | ldReg x y => exact goesOn_next ((s.frame_setV x _).advance .single)
  | orReg x y => exact goesOn_next ((s.frame_setV x _).advance .single)
  | andReg x y => exact goesOn_next ((s.frame_setV x _).advance .single)
  | xorReg x y => exact goesOn_next ((s.frame_setV x _).advance .single)
  | addReg x y => exact goesOn_next (s.frame_resultAndFlag x _ _)
  | subReg x y => exact goesOn_next (s.frame_resultAndFlag x _ _)
  | shr x y => exact goesOn_next (s.frame_resultAndFlag x _ _)
  | subn x y => exact goesOn_next (s.frame_resultAndFlag x _ _)
  | shl x y => exact goesOn_next (s.frame_resultAndFlag x _ _)
  | sneReg x y => exact goesOn_next ((Frame.refl s).advance _)
  | ldI nnn => exact goesOn_next (((s.frame_setI _).advance .single).mono (by simp [Instr.writes]))
  | jpV0 nnn => exact goesOn_next (s.frame_setPc _)
  | rnd x kk => exact goesOn_next (((s.frame_setV x _).trans (State.frame_nextDraw _)).advance .single)
  | drw x y n => exact goesOn_guardAccess _ ((s.frame_putCanvas _).advance .single)
  | skp x => exact goesOn_keyTest x true fun _ => (Frame.refl s).advance _
  | sknp x => exact goesOn_keyTest x false fun _ => (Frame.refl s).advance _
  | ldVxDt x => exact goesOn_next ((s.frame_setV x _).advance .single)
  | ldVxK x => exact goesOn_next (s.frame_startKeyWait x)
  | ldDtVx x => exact goesOn_next ((s.frame_setDt _).advance .single)
  | ldStVx x => exact goesOn_next ((s.frame_setSt _).advance .single)
  | addI x =>
    exact goesOn_next ((((s.frame_setI _).trans (State.frame_setFlag _ _)).advance .single).mono (by simp [Instr.writes]))
  | ldF x => exact goesOn_next (((s.frame_setI _).advance .single).mono (by simp [Instr.writes]))
  | ldB x => exact goesOn_guardAccess _ ((s.frame_storeBytes _ _).advance .single)
  | storeRegs x => exact goesOn_guardAccess _ ((s.frame_storeBytes _ _).advance .single)
  | loadRegs x => exact goesOn_guardAccess _ ((s.frame_setRegs (Memory.length_readBytes _ _ _)).advance .single)

/-- What an instruction that went on has done: latched an error and nothing else, or written only what the tables name. -/
theorem exec_cases {i : Instr} {s t : State} (h : exec i s = .next t) :
    (∃ e, t = s.latch e) ∨ Frame i.writes i.destinations s t := by
  obtain ⟨u, hu, hcases⟩ := exec_goesOn i s
  cases h.symm.trans hu
  exact hcases

/-- An instruction that left FAULT as it was has written only what the tables name. -/
theorem exec_frame {i : Instr} {s t : State} (h : exec i s = .next t) (hf : t.fault = s.fault) :
    Frame i.writes i.destinations s t := by
  obtain ⟨e, rfl⟩ | hframe := exec_cases h
  · have hs : s.latch e = s := by
      unfold State.latch
      rw [show some e = s.fault from hf]
    rw [hs]
    exact ⟨unchangedBut_refl _ s, fun _ _ => rfl, fun _ => rfl⟩
  · exact hframe

/-! ## What no instruction writes -/

theorem keys_notMem_writes (i : Instr) : Part.keys ∉ i.writes := by cases i <;> simp [Instr.writes]
theorem keyFrame_notMem_writes (i : Instr) : Part.keyFrame ∉ i.writes := by cases i <;> simp [Instr.writes]
theorem fault_notMem_writes (i : Instr) : Part.fault ∉ i.writes := by cases i <;> simp [Instr.writes]
theorem schedule_notMem_writes (i : Instr) : Part.schedule ∉ i.writes := by cases i <;> simp [Instr.writes]

/-! ## Which instructions write a special part -/

theorem index_mem_writes {i : Instr} : Part.index ∈ i.writes ↔ (∃ a, i = .ldI a) ∨ (∃ x, i = .addI x) ∨ (∃ x, i = .ldF x) := by
  cases i <;> simp [Instr.writes]

theorem callStack_mem_writes {i : Instr} : Part.callStack ∈ i.writes ↔ (∃ a, i = .call a) ∨ i = .ret := by
  cases i <;> simp [Instr.writes]

theorem memory_mem_writes {i : Instr} : Part.memory ∈ i.writes ↔ (∃ x, i = .ldB x) ∨ (∃ x, i = .storeRegs x) := by
  cases i <;> simp [Instr.writes]

theorem pixels_mem_writes {i : Instr} : Part.pixels ∈ i.writes ↔ i = .cls ∨ ∃ x y n, i = .drw x y n := by
  cases i <;> simp [Instr.writes]

theorem dirty_mem_writes {i : Instr} : Part.dirty ∈ i.writes ↔ i = .cls ∨ ∃ x y n, i = .drw x y n := by
  cases i <;> simp [Instr.writes]

theorem delay_mem_writes {i : Instr} : Part.delay ∈ i.writes ↔ ∃ x, i = .ldDtVx x := by
  cases i <;> simp [Instr.writes]

theorem sound_mem_writes {i : Instr} : Part.sound ∈ i.writes ↔ ∃ x, i = .ldStVx x := by
  cases i <;> simp [Instr.writes]

theorem keyWait_mem_writes {i : Instr} : Part.keyWait ∈ i.writes ↔ ∃ x, i = .ldVxK x := by
  cases i <;> simp [Instr.writes]

theorem draws_mem_writes {i : Instr} : Part.draws ∈ i.writes ↔ ∃ x kk, i = .rnd x kk := by
  cases i <;> simp [Instr.writes]

/-- VF is written as the flag register, or as the destination that x = F names. -/
theorem vf_mem_destinations {i : Instr} (h : 0xF ∈ i.destinations) :
    (∃ x y, i = .addReg x y ∨ i = .subReg x y ∨ i = .shr x y ∨ i = .subn x y ∨ i = .shl x y) ∨
      (∃ x y n, i = .drw x y n) ∨ (∃ x, i = .addI x) ∨
      (∃ y, i = .ldReg 0xF y ∨ i = .orReg 0xF y ∨ i = .andReg 0xF y ∨ i = .xorReg 0xF y) ∨
      (∃ kk, i = .ldImm 0xF kk ∨ i = .addImm 0xF kk ∨ i = .rnd 0xF kk) ∨ i = .ldVxDt 0xF ∨ i = .loadRegs 0xF := by
  cases i
  case loadRegs x =>
    have hx : x = 0xF := by
      rw [Instr.mem_destinations_loadRegs] at h
      bv_omega
    simp [hx]
  all_goals simp_all [Instr.destinations, eq_comm]

/-! ## The statements -/

/-- Settles O9: an instruction that does not latch an error keeps FAULT. -/
theorem errorsArePrecise : Obligations.ErrorsArePrecise := by
  intro i s t h hne
  obtain he | hframe := exec_cases h
  · exact he
  · exact absurd (hframe.parts .fault (fault_notMem_writes i)) hne

/-- Settles O11: an instruction goes on, and no row of the tables names the keys, the frame flag or the schedule. -/
theorem everyInstructionCompletes : Obligations.EveryInstructionCompletes := by
  intro i s
  obtain ⟨t, ht, ⟨e, rfl⟩ | hframe⟩ := exec_goesOn i s
  · exact ⟨_, ht, rfl, rfl, rfl⟩
  · exact ⟨t, ht, hframe.parts .keys (keys_notMem_writes i), hframe.parts .keyFrame (keyFrame_notMem_writes i),
      hframe.parts .schedule (schedule_notMem_writes i)⟩

/-- Settles O12: what an instruction changed is in its row of the tables, and the rows that name a part are the instructions listed. -/
theorem onlyNamedInstructionsWriteSpecialState : Obligations.OnlyNamedInstructionsWriteSpecialState := by
  intro i s t h
  obtain ⟨e, rfl⟩ | ⟨hparts, hregs, hmem⟩ := exec_cases h
  · simp
  · have hchanged : ∀ p : Part, ¬ p.same s t → p ∈ i.writes := fun p hne => by_contra fun hp => hne (hparts p hp)
    refine ⟨fun hne => index_mem_writes.1 (hchanged .index hne),
      fun hne => callStack_mem_writes.1 (hchanged .callStack (not_and_or.2 hne)),
      fun hne => memory_mem_writes.1 (by_contra fun hp => hne (hmem hp)),
      fun hne => ?_,
      fun hne => delay_mem_writes.1 (hchanged .delay hne), fun hne => sound_mem_writes.1 (hchanged .sound hne),
      fun hne => keyWait_mem_writes.1 (hchanged .keyWait (not_and_or.2 hne)),
      fun hne => draws_mem_writes.1 (hchanged .draws hne),
      fun hne => vf_mem_destinations (by_contra fun hy => hne (hregs 0xF hy))⟩
    obtain hne | hne := hne
    · exact pixels_mem_writes.1 (hchanged .pixels hne)
    · exact dirty_mem_writes.1 (hchanged .dirty hne)

end Sys2Proof.Machine
end

section
/-! PROOFS. The instruction tick of spec/40_execution_cycle.md (R52 to R59) and its result: fetch, decode and execute, the errors a tick
latches, the key-wait poll, and the stop once an error is latched (60_exceptions.md R100). -/

namespace Sys2Proof.Machine

/-! ## Running ticks -/

theorem runInstr_error {s : State} {e : Error} (h : s.fetchInstr = .error e) : runInstr s = .next (s.latch e) := by
  simp only [runInstr, h, raise_eq]

theorem runInstr_ok {s : State} {i : Instr} (h : s.fetchInstr = .ok i) : runInstr s = exec i s := by
  simp only [runInstr, h]

theorem State.fetchInstr_outOfRange {s : State} (h : 0xFFE < s.pc.toNat) : s.fetchInstr = .error (.fetchOutOfRange s.pc) := by
  simp only [State.fetchInstr, State.fetch_error h]

/-- The word at PC, the byte there in its high half (20_memory.md R34). -/
def State.wordAtPc (s : State) : Word := wordOfBytes (s.readMem s.pc.toNat) (s.readMem (s.pc.toNat + 1))

theorem State.fetchInstr_ok {s : State} {i : Instr} (hpc : s.pc.toNat ≤ 0xFFE) (h : decodeWord s.wordAtPc = .ok i) :
    s.fetchInstr = .ok i := by
  rw [State.wordAtPc] at h
  simp only [State.fetchInstr, State.fetch_ok hpc, h]

theorem State.fetchInstr_invalid {s : State} (hpc : s.pc.toNat ≤ 0xFFE) (h : matchingRows s.wordAtPc = []) :
    s.fetchInstr = .error (.invalidOpcode s.wordAtPc) := by
  have hd := decodeWord_of_matchingRows_nil h
  rw [State.wordAtPc] at hd ⊢
  simp only [State.fetchInstr, State.fetch_ok hpc, hd]

theorem tickInstr_outOfRange {s : State} (hrun : s.running) (hpc : 0xFFE < s.pc.toNat) :
    tickInstr s = .next (s.latch (.fetchOutOfRange s.pc)) :=
  (tickInstr_running hrun.1 hrun.2).trans (runInstr_error (State.fetchInstr_outOfRange hpc))

theorem tickInstr_invalid {s : State} (hrun : s.running) (hpc : s.pc.toNat ≤ 0xFFE) (h : matchingRows s.wordAtPc = []) :
    tickInstr s = .next (s.latch (.invalidOpcode s.wordAtPc)) :=
  (tickInstr_running hrun.1 hrun.2).trans (runInstr_error (State.fetchInstr_invalid hpc h))

theorem tickInstr_exec {s : State} {i : Instr} (hrun : s.running) (hpc : s.pc.toNat ≤ 0xFFE)
    (h : decodeWord s.wordAtPc = .ok i) : tickInstr s = exec i s :=
  (tickInstr_running hrun.1 hrun.2).trans (runInstr_ok (State.fetchInstr_ok hpc h))

/-- Two bytes decode to an instruction with nothing left when their word does. -/
theorem decodeWord_of_decode_pair {hi lo : Byte} {i : Instr} (h : decode [hi, lo] = .ok (i, [])) :
    decodeWord (wordOfBytes hi lo) = .ok i := by
  cases hd : decodeWord (wordOfBytes hi lo) with
  | ok j => simpa [decode, hd] using h
  | error e => simp [decode, hd] at h

/-! ## The bytes of a word -/

theorem extractLsb'_high_wordOfBytes (hi lo : Byte) : (wordOfBytes hi lo).extractLsb' 8 8 = hi :=
  BitVec.extractLsb'_append_eq_left

theorem extractLsb'_low_wordOfBytes (hi lo : Byte) : (wordOfBytes hi lo).extractLsb' 0 8 = lo :=
  BitVec.extractLsb'_append_eq_right

/-! ## The result of a tick -/

theorem reply_tickInstr_ok {s t : State} (h : tickInstr s = .next t) (hf : t.fault = none) : reply .tickInstr s = .ok := by
  simp only [reply, tickResult, h, hf]

theorem reply_tickInstr_err {s t : State} {e : Error} (h : tickInstr s = .next t) (hf : t.fault = some e) :
    reply .tickInstr s = .err e := by
  simp only [reply, tickResult, h, hf]

theorem keyWaitPoll_fault (s : State) : (keyWaitPoll s).fault = s.fault := by
  obtain ⟨-, h⟩ | ⟨k, -, -, h⟩ := keyWaitPoll_cases s <;> rw [h]
  rfl

/-! ## The key-wait poll -/

theorem State.pressEdges_eq_nil {s : State} (h : s.keyFrame = false ∨ ∀ k, s.getKey k ≠ .pressed) : s.pressEdges = [] := by
  refine List.eq_nil_iff_forall_not_mem.2 fun k hk => ?_
  obtain ⟨hframe, hkey⟩ := (s.mem_pressEdges k).1 hk
  obtain h | h := h
  · exact absurd hframe (by simp [h])
  · exact h k hkey

theorem State.frame_release (s : State) (k : KeyIndex) : Frame [.pc, .keyWait] [s.waitReg] s (s.release k) where
  parts p hp := by cases p <;> simp_all [Part.same]
  registers y hy := by rw [State.getV_release, if_neg (List.ne_of_not_mem_cons hy)]
  memory _ := rfl

/-- A poll that sees a press edge releases with some key in state Pressed. -/
theorem keyWaitPoll_release {s : State} (hframe : s.keyFrame = true) (hkey : ∃ k, s.getKey k = .pressed) :
    ∃ k, s.getKey k = .pressed ∧ keyWaitPoll s = (s.release k).nextDraw := by
  obtain ⟨hnil, -⟩ | ⟨k, -, hk, hpoll⟩ := keyWaitPoll_cases s
  · obtain ⟨k, hk⟩ := hkey
    have hmem := (s.mem_pressEdges k).2 ⟨hframe, hk⟩
    simp [hnil] at hmem
  · exact ⟨k, hk, hpoll⟩

theorem toNat_ofNat_keyIndex (k : KeyIndex) : (BitVec.ofNat Params.vWidth k.val).toNat = k.val :=
  Nat.mod_eq_of_lt (k.isLt.trans (by decide))

/-! ## The statements -/

/-- Settles O5: the steps by the head of the schedule, and the tick by its fetch. -/
theorem stepRunsDecodedInstruction : Obligations.StepRunsDecodedInstruction := by
  intro s
  refine ⟨step_nil, fun r rest => step_cons, fun i rest hf hw hpc hdec => ?_⟩
  have hword := decodeWord_of_decode_pair hdec
  have htick : tickInstr s = exec i s := tickInstr_exec ⟨hf, hw⟩ hpc hword
  have htick' : tickInstr { s with schedule := rest } = exec i { s with schedule := rest } :=
    tickInstr_exec ⟨hf, hw⟩ hpc hword
  exact ⟨htick, fun hnil => (step_nil hnil).trans htick, fun hcons => (step_cons hcons).trans htick'⟩

/-- Settles O6: both bounds of the fetch. -/
theorem fetchIsBigEndianAndBounded : Obligations.FetchIsBigEndianAndBounded :=
  fun _ => ⟨fun h => ⟨_, State.fetch_ok h, extractLsb'_high_wordOfBytes _ _, extractLsb'_low_wordOfBytes _ _⟩, State.fetch_error⟩

/-- Settles O7: a word that no row matches is one the decoder rejects. -/
theorem fetchAndDecodeErrorsLatch : Obligations.FetchAndDecodeErrorsLatch := by
  intro s hrun
  refine ⟨tickInstr_outOfRange hrun, fun w hpc hw hrows => ?_⟩
  subst hw
  exact tickInstr_invalid hrun hpc hrows

/-- Settles O60: the result is read off the state the tick goes on to. -/
theorem tickResultReportsTheError : Obligations.TickResultReportsTheError := by
  intro s hf
  refine ⟨fun hw => reply_tickInstr_ok (tickInstr_waiting hf hw) ((keyWaitPoll_fault s).trans hf),
    fun hw hpc => reply_tickInstr_err (tickInstr_outOfRange ⟨hf, hw⟩ hpc) rfl, fun w hw hpc hword => ?_⟩
  subst hword
  refine ⟨fun hrows => reply_tickInstr_err (tickInstr_invalid ⟨hf, hw⟩ hpc hrows) rfl, fun i t hdec hexec => ?_⟩
  have htick : tickInstr s = .next t := (tickInstr_exec ⟨hf, hw⟩ hpc hdec).trans hexec
  exact ⟨reply_tickInstr_ok htick, fun e => reply_tickInstr_err htick⟩

/-- Settles O8: every transaction but the two reads goes through the check for a latched error. -/
theorem faultedStateIsTerminal : Obligations.FaultedStateIsTerminal := by
  intro s e hf
  have hstop : ∀ (u : State) (r : Transaction), u.fault = some e → r ≠ .fbRead → r ≠ .timerRead →
      transact r u = .fault (.errorLatched e) := by
    intro u r hu hfb htimer
    cases r
    case fbRead => exact absurd rfl hfb
    case timerRead => exact absurd rfl htimer
    all_goals exact unlessFaulted_some hu _
  refine ⟨rfl, rfl, reply_timerRead s, rfl, fun rest hread => ?_, fun r => hstop s r hf, fun hnot => ?_⟩
  · obtain h | h := hread <;> exact step_cons h
  · obtain ⟨-, hstep⟩ | ⟨r, rest, hr, hstep⟩ := step_cases s
    · exact hstep.trans (unlessFaulted_some hf _)
    · obtain ⟨hfb, htimer⟩ := hnot rest
      exact hstep.trans (hstop _ r hf (fun h => hfb (h ▸ hr)) (fun h => htimer (h ▸ hr)))

/-- Settles O10: the poll by whether it sees a press edge. -/
theorem keyWaitPollReleasesOnPressEdge : Obligations.KeyWaitPollReleasesOnPressEdge := by
  intro s hf hw
  constructor
  · intro hno
    have hpoll : keyWaitPoll s = s := by
      simp only [keyWaitPoll, State.pressEdges_eq_nil hno]
    exact (tickInstr_waiting hf hw).trans (congrArg _ hpoll)
  · intro hframe hkey
    obtain ⟨k, hk, hpoll⟩ := keyWaitPoll_release hframe hkey
    have hchange := (s.frame_release k).trans (State.frame_nextDraw _)
    refine ⟨_, k, (tickInstr_waiting hf hw).trans (congrArg _ hpoll), hk, ?_, rfl, rfl, rfl, hchange.registers, hchange.parts⟩
    rw [State.nextDraw_getV, State.getV_release, if_pos rfl, toNat_ofNat_keyIndex]

/-- Settles O57: a jump to its own address. -/
theorem haltedTickIsIdle : Obligations.HaltedTickIsIdle := by
  rintro s ⟨hf, hw, hpc, nnn, hnnn, hword⟩
  have hdec : decodeWord s.wordAtPc = .ok (.jp nnn) := (congrArg decodeWord hword).trans (decodeWord_encodeWord (.jp nnn))
  have htarget : (addrOperand nnn : PcWord) = s.pc :=
    BitVec.eq_of_toNat_eq ((toNat_addrOperand (by decide) nnn).trans hnnn)
  calc transact .tickInstr s = exec (.jp nnn) s := tickInstr_exec ⟨hf, hw⟩ hpc hdec
    _ = .next (s.setPc (addrOperand nnn)) := rfl
    _ = .next s := by rw [htarget]; rfl

end Sys2Proof.Machine
end

section
/-! PROOFS. The host's transactions other than the instruction tick (spec/40_execution_cycle.md R50 Table T): each writes only its row
of the table; LOAD, the timer ticks and the key events. -/

namespace Sys2Proof.Machine

/-! ## What each transaction leaves unchanged -/

theorem State.frame_countTimers (s : State) : Frame [.delay, .sound] [] s s.countTimers where
  parts p hp := by cases p <;> simp_all [Part.same]
  registers _ _ := rfl
  memory _ := rfl

theorem State.frame_moveKey (s : State) (k : KeyIndex) (p : KeyMove) : Frame [.keys, .keyFrame] [] s (s.moveKey k p) where
  parts q hq := by cases q <;> simp_all [Part.same]
  registers _ _ := rfl
  memory _ := rfl

theorem transact_frame {r : Transaction} {s t : State} (hr : r ≠ .tickInstr) (h : transact r s = .next t) :
    Frame r.writes [] s t := by
  obtain ⟨rom, rfl, -, -, rfl⟩ | ⟨rfl, -⟩ | ⟨rfl, -, rfl⟩ | ⟨k, p, rfl, -, rfl⟩ | ⟨rfl, -, rfl⟩ | ⟨rfl, -, rfl⟩ |
    ⟨rfl | rfl, rfl⟩ := transact_cases h
  · exact s.frame_storeBytes _ _
  · exact absurd rfl hr
  · exact s.frame_countTimers
  · exact s.frame_moveKey k p
  · exact ⟨s.unchangedBut_clearKeyFrame, fun _ _ => rfl, fun _ => rfl⟩
  · exact ⟨s.unchangedBut_clearDirty, fun _ _ => rfl, fun _ => rfl⟩
  · exact Frame.refl _
  · exact Frame.refl _

/-! ## Timer ticks -/

theorem toNat_countDown (b : BitVec 8) : (countDown b).toNat = b.toNat - 1 := by
  unfold countDown
  split_ifs with h
  · simp [h]
  · bv_omega

/-- A timer tick at the head of the schedule is taken off it. -/
theorem step_tickTimer {s : State} {rest : List Transaction} (hf : s.fault = none) :
    step { s with schedule := .tickTimer :: rest } = .next { s.countTimers with schedule := rest } :=
  (step_cons (r := .tickTimer) rfl).trans (unlessFaulted_none (s := { s with schedule := rest }) hf _)

/-! ## Key events -/

theorem State.getKey_moveKey (s : State) (k l : KeyIndex) (p : KeyMove) :
    (s.moveKey k p).getKey l = if l = k then (s.getKey k).after p else s.getKey l :=
  s.getKey_setKey k l _

theorem KeyState.after_release (q : KeyState) : q.after .release = .released := by cases q <;> rfl

/-! ## The statements -/

/-- Settles O51: the frame of each transaction, by what a transaction that went on has done. -/
theorem hostTransactionsKeepProgramState : Obligations.HostTransactionsKeepProgramState := by
  intro r s t hr h
  obtain ⟨hparts, hregs, -⟩ := transact_frame hr h
  exact ⟨hregs, hparts⟩

/-- Settles O46, by induction on the number of ticks. -/
theorem timerTicksCountDownToZero : Obligations.TimerTicksCountDownToZero := by
  intro n
  induction n with
  | zero => exact fun s _ => ⟨s, rfl, rfl, rfl, fun _ _ => rfl, unchangedBut_refl _ s⟩
  | succ n ih =>
    intro s hf
    obtain ⟨t, hrun, hdt, hst, hregs, hparts⟩ := ih s.countTimers hf
    refine ⟨t, ?_, ?_, ?_, fun y hy => (hregs y hy).trans (s.countTimers_getV y),
      fun p hp => Part.same_trans (s.frame_countTimers.parts p hp) (hparts p hp)⟩
    · have hstep := step_tickTimer (s := s) (rest := List.replicate n .tickTimer ++ s.schedule) hf
      rw [List.replicate_succ, List.cons_append]
      simp only [Host.Core.run, show Sys2Proof.core.step = step from rfl, hstep]
      exact hrun
    · rw [hdt, State.countTimers_dt, toNat_countDown]
      omega
    · rw [hst, State.countTimers_st, toNat_countDown]
      omega

/-- Settles O50: LOAD is a store at 0x200, or a refusal. -/
theorem loadPlacesRomOrRefuses : Obligations.LoadPlacesRomOrRefuses := by
  intro s rom hf
  constructor
  · intro hlen
    have hload : transact (.load rom) s = .next (s.storeBytes 0x200 rom) :=
      (unlessFaulted_none hf _).trans (if_pos (decide_eq_true hlen))
    refine ⟨_, hload, fun j hj => ?_, fun a ha => ?_, fun _ _ => rfl, (s.frame_storeBytes _ _).parts⟩
    · rw [State.readMem_storeBytes, if_pos (by omega), Nat.add_sub_cancel_left]
    · rw [State.readMem_storeBytes, if_neg ha]
  · intro hlen
    have hbig : ¬ romFits rom = true := by
      simp only [romFits, decide_eq_true_eq, Params.romMax_eq]
      omega
    exact (unlessFaulted_none hf _).trans (if_neg hbig)

/-- Settles O47: Table KL by the state of the key, and the frame of the move. -/
theorem keyEventFollowsTable : Obligations.KeyEventFollowsTable := by
  intro s k hf
  refine ⟨_, _, unlessFaulted_none hf _, unlessFaulted_none hf _, fun hreleased => ?_, fun hdown => ?_, ?_, ?_, ?_⟩
  · simp [State.getKey_moveKey, hreleased, KeyState.after, isPressEdge]
  · cases hkey : s.getKey k with
    | released => exact absurd hkey hdown
    | pressed | held => simp [State.getKey_moveKey, hkey, KeyState.after, isPressEdge]
  · simp [State.getKey_moveKey, KeyState.after_release]
  · simp [isPressEdge]
  · have hmove : ∀ p, (∀ l, l ≠ k → (s.moveKey k p).getKey l = s.getKey l) ∧ registersKeptBut [] s (s.moveKey k p) ∧
        unchangedBut [.keys, .keyFrame] s (s.moveKey k p) := fun p =>
      ⟨fun l hl => by rw [State.getKey_moveKey, if_neg hl], fun _ _ => rfl, (s.frame_moveKey k p).parts⟩
    simp only [List.forall_mem_cons]
    exact ⟨hmove .press, hmove .release, List.forall_mem_nil _⟩

end Sys2Proof.Machine
end

section
/-! PROOFS. Reset and construction (spec/70_reset_and_hazards.md R115), and the two invariants every step keeps: canonical memory
(20_memory.md sections 1 and 3) and a bounded PC (10_state.md section 3). -/

namespace Sys2Proof.Machine

/-! ## Memory stays canonical -/

theorem keyWaitPoll_mem (s : State) : (keyWaitPoll s).mem = s.mem := by
  obtain ⟨-, h⟩ | ⟨k, -, -, h⟩ := keyWaitPoll_cases s <;> rw [h]
  rfl

theorem exec_wf {i : Instr} {s t : State} (hwf : s.mem.wf) (h : exec i s = .next t) : t.mem.wf := by
  obtain hmem | ⟨bs, hbs, hmem⟩ := exec_mem h <;> rw [hmem]
  · exact hwf
  · exact Memory.wf_writeBytes bs hwf hbs

theorem tickInstr_wf {s t : State} (hwf : s.mem.wf) (h : tickInstr s = .next t) : t.mem.wf := by
  obtain ⟨-, ⟨-, rfl⟩ | ⟨-, ⟨-, rfl⟩ | ⟨-, w, -, rfl | ⟨i, -, hexec⟩⟩⟩⟩ := tickInstr_cases h
  · rwa [keyWaitPoll_mem]
  · exact hwf
  · exact hwf
  · exact exec_wf hwf hexec

theorem transact_wf {r : Transaction} {s t : State} (hwf : s.mem.wf) (h : transact r s = .next t) : t.mem.wf := by
  obtain ⟨rom, -, -, hfits, rfl⟩ | ⟨-, htick⟩ | ⟨-, -, rfl⟩ | ⟨k, p, -, -, rfl⟩ | ⟨-, -, rfl⟩ | ⟨-, -, rfl⟩ | ⟨-, rfl⟩ :=
    transact_cases h
  · have hlen : rom.length ≤ 3584 := of_decide_eq_true hfits
    exact Memory.wf_writeBytes rom hwf (by simp only [Params.memSize_eq, Params.programBase_eq]; omega)
  · exact tickInstr_wf hwf htick
  all_goals exact hwf

/-- A step is a tick or a transaction, on the state with the same memory. -/
theorem step_keeps {P : State → Prop} (hsched : ∀ s rest, P s → P { s with schedule := rest })
    (htransact : ∀ r s t, P s → transact r s = .next t → P t) {s t : State} (hs : P s) (h : step s = .next t) : P t := by
  obtain ⟨-, hstep⟩ | ⟨r, rest, -, hstep⟩ := step_cases s <;> rw [hstep] at h
  · exact htransact .tickInstr s t hs h
  · exact htransact r _ t (hsched s rest hs) h

/-! ## PC stays bounded -/

/-- Every return address held is fetchable. -/
def State.heldFetchable (s : State) : Prop :=
  ∀ j, (h : j < Params.stackCapacity) → j < s.sp.val → (s.stack[j]'h).toNat ≤ Params.fetchMax

theorem State.pcBounded.heldFetchable {s : State} (h : s.pcBounded) : s.heldFetchable := h.2.2

theorem State.pcBounded.fetchable_of_waiting {s : State} (h : s.pcBounded) (hw : s.waiting = true) : s.pc.toNat ≤ 0xFFE :=
  h.2.1 hw

theorem pcBounded_of_not_waiting {t : State} (hpc : t.pc.toNat ≤ 0x10FE) (hw : t.waiting = false) (hheld : t.heldFetchable) :
    t.pcBounded :=
  ⟨hpc, fun h => by simp [hw] at h, hheld⟩

/-- An advance from a fetchable address stays below the bound. -/
theorem pcBounded_advance {u : State} {a : Advance} (hpc : u.pc.toNat ≤ 0xFFE) (hw : u.waiting = false)
    (hheld : u.heldFetchable) : (u.advance a).pcBounded := by
  have hadd : ∀ k : PcWord, k.toNat ≤ 4 → (u.pc + k).toNat ≤ 0x10FE := fun k hk => by
    rw [BitVec.toNat_add]
    exact (Nat.mod_le _ _).trans (by omega)
  cases a with
  | single => exact pcBounded_of_not_waiting (hadd 2 (by decide)) hw hheld
  | skip => exact pcBounded_of_not_waiting (hadd 4 (by decide)) hw hheld
  | none => exact pcBounded_of_not_waiting (hpc.trans (by decide)) hw hheld

theorem toNat_offsetTarget (v0 : VByte) (nnn : Addr12) : (offsetTarget v0 nnn).toNat = v0.toNat + nnn.toNat := by
  have hv0 : v0.toNat < 256 := v0.isLt
  have hnnn : nnn.toNat < 4096 := nnn.isLt
  have hbyte : (byteOperand v0 : PcWord).toNat = v0.toNat := BitVec.toNat_setWidth_of_le (by decide)
  rw [offsetTarget, BitVec.toNat_add, hbyte, toNat_addrOperand (by decide)]
  exact Nat.mod_eq_of_lt (by rw [Params.pcWidth_eq]; omega)

theorem toNat_addrOperand_le (nnn : Addr12) : (addrOperand nnn : PcWord).toNat ≤ 0x10FE := by
  have hnnn : nnn.toNat < 4096 := nnn.isLt
  rw [toNat_addrOperand (by decide)]
  omega

theorem State.heldFetchable_push {s : State} {w : StackWord} (h : s.sp.val < Params.stackCapacity) (hw : w.toNat ≤ 0xFFE)
    (hheld : s.heldFetchable) : (s.push w h).heldFetchable := by
  intro j hj hlt
  simp only [State.push_stack, State.push_sp] at hlt ⊢
  rw [Vector.getElem_set]
  split_ifs with heq
  · exact hw
  · exact hheld j hj (by omega)

theorem State.heldFetchable_setRegs {s : State} (bs : List Byte) (hheld : s.heldFetchable) : (s.setRegs bs).heldFetchable := by
  simpa only [State.heldFetchable, State.setRegs_stack, State.setRegs_sp] using hheld

theorem goesOn_ret_pcBounded {s : State} (hw : s.waiting = false) (hheld : s.heldFetchable) :
    goesOn s State.pcBounded (exec .ret s) := by
  by_cases h : 0 < s.sp.val
  · rw [execRet_pop h]
    have htop : (s.popToPc h).pc.toNat ≤ 0xFFE := by
      rw [State.popToPc_pc]
      exact hheld _ (isHeld h) (by omega)
    exact goesOn_next (pcBounded_advance htop hw fun j hj hlt => hheld j hj (hlt.trans_le (Nat.sub_le _ _)))
  · rw [execRet_underflow (by omega)]
    exact goesOn_raise _ _ _

theorem goesOn_call_pcBounded {s : State} (nnn : Addr12) (hpc : s.pc.toNat ≤ 0xFFE) (hw : s.waiting = false)
    (hheld : s.heldFetchable) : goesOn s State.pcBounded (exec (.call nnn) s) := by
  by_cases h : s.sp.val < 16
  · rw [execCall_push nnn h]
    exact goesOn_next (pcBounded_of_not_waiting (toNat_addrOperand_le nnn) hw (State.heldFetchable_push h hpc hheld))
  · rw [execCall_overflow nnn (by have := s.sp_le; omega)]
    exact goesOn_raise _ _ _

/-- An instruction run from a fetchable address with fetchable return addresses keeps PC bounded. -/
theorem exec_goesOn_pcBounded (i : Instr) {s : State} (hpc : s.pc.toNat ≤ 0xFFE) (hw : s.waiting = false)
    (hheld : s.heldFetchable) : goesOn s State.pcBounded (exec i s) := by
  cases i
  case ret => exact goesOn_ret_pcBounded hw hheld
  case call nnn => exact goesOn_call_pcBounded nnn hpc hw hheld
  case jp nnn => exact goesOn_next (pcBounded_of_not_waiting (toNat_addrOperand_le nnn) hw hheld)
  case jpV0 nnn =>
    have hv0 : (s.getV 0).toNat < 256 := s.getV_lt 0
    have hnnn : nnn.toNat < 4096 := nnn.isLt
    have htarget : (offsetTarget (s.getV 0) nnn).toNat ≤ 0x10FE := by
      rw [toNat_offsetTarget]
      omega
    exact goesOn_next (pcBounded_of_not_waiting htarget hw hheld)
  case ldVxK x => exact goesOn_next ⟨hpc.trans (by decide), fun _ => hpc, hheld⟩
  case skp x => exact goesOn_keyTest x true fun _ => pcBounded_advance hpc hw hheld
  case sknp x => exact goesOn_keyTest x false fun _ => pcBounded_advance hpc hw hheld
  case drw x y n => exact goesOn_guardAccess _ (pcBounded_advance hpc hw hheld)
  case ldB x => exact goesOn_guardAccess _ (pcBounded_advance hpc hw hheld)
  case storeRegs x => exact goesOn_guardAccess _ (pcBounded_advance hpc hw hheld)
  case loadRegs x =>
    refine goesOn_guardAccess _ (pcBounded_advance ?_ ?_ (State.heldFetchable_setRegs _ hheld))
    · rwa [State.setRegs_pc]
    · rwa [State.setRegs_waiting]
  all_goals exact goesOn_next (pcBounded_advance hpc hw hheld)

theorem exec_pcBounded {i : Instr} {s t : State} (hs : s.pcBounded) (hpc : s.pc.toNat ≤ 0xFFE) (hw : s.waiting = false)
    (h : exec i s = .next t) : t.pcBounded := by
  obtain ⟨u, hu, hcases⟩ := exec_goesOn_pcBounded i hpc hw hs.heldFetchable
  cases h.symm.trans hu
  obtain ⟨e, rfl⟩ | ht := hcases
  · exact hs
  · exact ht

theorem State.pcBounded_release {s : State} (k : KeyIndex) (hpc : s.pc.toNat ≤ 0xFFE) (hheld : s.heldFetchable) :
    (s.release k).pcBounded := by
  unfold State.release
  exact pcBounded_advance hpc rfl hheld

theorem keyWaitPoll_pcBounded {s : State} (hs : s.pcBounded) (hw : s.waiting = true) : (keyWaitPoll s).pcBounded := by
  obtain ⟨-, h⟩ | ⟨k, -, -, h⟩ := keyWaitPoll_cases s <;> rw [h]
  · exact hs
  · exact State.pcBounded_release k (hs.fetchable_of_waiting hw) hs.heldFetchable

theorem tickInstr_pcBounded {s t : State} (hs : s.pcBounded) (h : tickInstr s = .next t) : t.pcBounded := by
  obtain ⟨-, ⟨hw, rfl⟩ | ⟨hw, ⟨-, rfl⟩ | ⟨hpc, w, -, rfl | ⟨i, -, hexec⟩⟩⟩⟩ := tickInstr_cases h
  · exact keyWaitPoll_pcBounded hs hw
  · exact hs
  · exact hs
  · exact exec_pcBounded hs hpc hw hexec

theorem transact_pcBounded {r : Transaction} {s t : State} (hs : s.pcBounded) (h : transact r s = .next t) : t.pcBounded := by
  obtain ⟨rom, -, -, -, rfl⟩ | ⟨-, htick⟩ | ⟨-, -, rfl⟩ | ⟨k, p, -, -, rfl⟩ | ⟨-, -, rfl⟩ | ⟨-, -, rfl⟩ | ⟨-, rfl⟩ :=
    transact_cases h
  case inr.inl => exact tickInstr_pcBounded hs htick
  all_goals exact hs

/-! ## Construction and the default font -/

theorem State.mem_construct (font : List Byte) (initMem : Nat → Byte) :
    (State.construct font initMem).mem = Memory.ofBytes (initialByte font initMem) := by
  simp only [State.construct]

/-- A construction reads as the font and behind it as INIT_MEM (20_memory.md R28, R29). -/
theorem State.readMem_construct (font : List Byte) (initMem : Nat → Byte) {a : Nat} (ha : a < Params.memSize) :
    (State.construct font initMem).readMem a = font.getD a (initMem a) := by
  simp only [State.readMem, State.mem_construct, Memory.read_ofBytes _ ha, initialByte_eq]

/-- Nothing is stored at reset, so a read there is the font's byte or INIT_MEM's (20_memory.md R28, R29). -/
theorem State.readMem_reset (a : Nat) : State.reset.readMem a = Params.font.getD a Params.initByte := rfl

/-- The 80 bytes of the default font are Table F, digit by digit. -/
theorem font_eq_tableF (d : Nibble) :
    (List.range Params.glyphBytes).map (fun k => Params.font.getD (Params.glyphBytes * d.toNat + k) Params.initByte) = tableF d := by
  have h : ∀ j : Fin 16, (List.range Params.glyphBytes).map (fun k => Params.font.getD (Params.glyphBytes * j.val + k)
      Params.initByte) = tableF (BitVec.ofFin j) := by decide
  exact h d.toFin

/-! ## The statements -/

/-- Settles O55: memory stays canonical in each transaction, and so in a step. -/
theorem stepsKeepMemoryCanonical : Obligations.StepsKeepMemoryCanonical :=
  fun _ _ => step_keeps (P := fun s => s.mem.wf) (fun _ _ h => h) fun _ _ _ => transact_wf

/-- Settles O56: the bound holds in each transaction, a fetch being what makes an instruction's PC fetchable, and so in a step. -/
theorem stepsKeepPcBounded : Obligations.StepsKeepPcBounded :=
  fun _ _ => step_keeps (fun _ _ h => h) fun _ _ _ => transact_pcBounded

/-- Settles O54: the empty memory, and no key-wait and no return address at reset. -/
theorem resetMeetsInvariants : Obligations.ResetMeetsInvariants :=
  ⟨⟨List.Pairwise.nil, List.forall_mem_nil _⟩, by decide, fun h => Bool.noConfusion h, fun _ _ h => absurd h (Nat.not_lt_zero _)⟩

/-- Settles O52: each field by its definition, and the font by reading all its bytes. -/
theorem resetMatchesTableR : Obligations.ResetMatchesTableR := by
  refine ⟨fun x => ?_, rfl, rfl, rfl, rfl, rfl, rfl, rfl, fun px py _ _ => get_blankFrame px py, rfl, fun k => ?_, rfl, rfl,
    font_eq_tableF⟩
  · exact Vector.getElem_replicate _
  · exact Vector.getElem_replicate _

/-- Settles O53: the canonical memory of the bytes given, beside the reset state. -/
theorem constructionHoldsFontAndInitMem : Obligations.ConstructionHoldsFontAndInitMem := by
  intro font initMem hlen
  refine ⟨fun a ha => ?_, fun a hlo hhi => ?_, ?_, fun y _ => ?_, fun p hp => ?_⟩
  · have hmem : a < 4096 := by omega
    rw [State.readMem_construct font initMem hmem, List.getD_eq_getElem _ _ (by omega), List.getD_eq_getElem _ _ (by omega)]
  · rw [State.readMem_construct font initMem hhi, List.getD_eq_default _ _ (by omega)]
  · rw [State.mem_construct]
    exact Memory.wf_ofBytes _
  · simp only [State.getV, State.construct]
  · cases p
    case memory => exact absurd (List.mem_singleton_self _) hp
    all_goals simp only [Part.same, State.construct, and_self]

end Sys2Proof.Machine
end

section
/-! PROOFS. What no step observes (spec/10_state.md sections 4 to 6): a relation between states that every part of a step keeps is kept by
the step, and two relations of that kind, equality but for stale stack entries and equality but for DIRTY and ST. -/

namespace Sys2Proof.Machine

/-! ## Relations kept by steps -/

/-- Related states take the same way through a step, and each thing a step can do keeps the relation. -/
structure KeptByParts (R : State → State → Prop) : Prop where
  fault         : ∀ {s t}, R s t → t.fault = s.fault
  waiting       : ∀ {s t}, R s t → t.waiting = s.waiting
  schedule      : ∀ {s t}, R s t → t.schedule = s.schedule
  fetchInstr    : ∀ {s t}, R s t → t.fetchInstr = s.fetchInstr
  latch         : ∀ {s t} e, R s t → R (s.latch e) (t.latch e)
  reschedule    : ∀ {s t : State} rest, R s t → R { s with schedule := rest } { t with schedule := rest }
  storeBytes    : ∀ {s t} base bs, R s t → R (s.storeBytes base bs) (t.storeBytes base bs)
  countTimers   : ∀ {s t}, R s t → R s.countTimers t.countTimers
  moveKey       : ∀ {s t} k p, R s t → R (s.moveKey k p) (t.moveKey k p)
  clearKeyFrame : ∀ {s t}, R s t → R s.clearKeyFrame t.clearKeyFrame
  clearDirty    : ∀ {s t}, R s t → R s.clearDirty t.clearDirty
  keyWaitPoll   : ∀ {s t}, R s t → R (keyWaitPoll s) (keyWaitPoll t)
  exec          : ∀ {s t} i, R s t → alike R (exec i s) (exec i t)

theorem alike_unlessFaulted {R : State → State → Prop} {s t : State} {o o' : Outcome} (hf : t.fault = s.fault)
    (h : alike R o o') : alike R (unlessFaulted s o) (unlessFaulted t o') := by
  cases hs : s.fault with
  | none => rwa [unlessFaulted_none hs, unlessFaulted_none (hf.trans hs)]
  | some e =>
    rw [unlessFaulted_some hs, unlessFaulted_some (hf.trans hs)]
    rfl

theorem KeptByParts.runInstr {R : State → State → Prop} (hR : KeptByParts R) {s t : State} (h : R s t) :
    alike R (runInstr s) (runInstr t) := by
  cases hs : s.fetchInstr with
  | error e =>
    rw [runInstr_error hs, runInstr_error ((hR.fetchInstr h).trans hs)]
    exact hR.latch e h
  | ok i =>
    rw [runInstr_ok hs, runInstr_ok ((hR.fetchInstr h).trans hs)]
    exact hR.exec i h

theorem KeptByParts.tickInstr {R : State → State → Prop} (hR : KeptByParts R) {s t : State} (h : R s t) :
    alike R (tickInstr s) (tickInstr t) := by
  refine alike_unlessFaulted (hR.fault h) ?_
  rw [hR.waiting h]
  split_ifs
  · exact hR.keyWaitPoll h
  · exact hR.runInstr h

theorem KeptByParts.loadRom {R : State → State → Prop} (hR : KeptByParts R) (rom : List Byte) {s t : State} (h : R s t) :
    alike R (loadRom rom s) (loadRom rom t) := by
  unfold Machine.loadRom
  split_ifs
  · exact hR.storeBytes _ rom h
  · rfl

theorem KeptByParts.transact {R : State → State → Prop} (hR : KeptByParts R) (r : Transaction) {s t : State} (h : R s t) :
    alike R (transact r s) (transact r t) := by
  cases r with
  | load rom => exact alike_unlessFaulted (hR.fault h) (hR.loadRom rom h)
  | tickInstr => exact hR.tickInstr h
  | tickTimer => exact alike_unlessFaulted (hR.fault h) (hR.countTimers h)
  | keyEvent k p => exact alike_unlessFaulted (hR.fault h) (hR.moveKey k p h)
  | frameReset => exact alike_unlessFaulted (hR.fault h) (hR.clearKeyFrame h)
  | fbRead => exact h
  | dirtyQuery => exact alike_unlessFaulted (hR.fault h) (hR.clearDirty h)
  | timerRead => exact h

theorem KeptByParts.step {R : State → State → Prop} (hR : KeptByParts R) {s t : State} (h : R s t) :
    alike R (step s) (step t) := by
  cases hs : s.schedule with
  | nil =>
    rw [step_nil hs, step_nil ((hR.schedule h).trans hs)]
    exact hR.tickInstr h
  | cons r rest =>
    rw [step_cons hs, step_cons ((hR.schedule h).trans hs)]
    exact hR.transact r (hR.reschedule rest h)

/-! ## Guarded accesses and key tests of related states -/

theorem alike_guardAccess {R : State → State → Prop} {s t s' t' : State} (n : Nat) (hi : t.i = s.i)
    (hlatch : ∀ e, R (s.latch e) (t.latch e)) (h : R s' t') : alike R (guardAccess s n s') (guardAccess t n t') := by
  unfold guardAccess
  rw [hi]
  cases accessError s.i n with
  | none => exact h
  | some e => exact hlatch e

theorem alike_keyTest {R : State → State → Prop} {s t : State} (x : Nibble) (want : Bool) (hv : t.getV x = s.getV x)
    (hk : t.getKey = s.getKey) (hlatch : ∀ e, R (s.latch e) (t.latch e)) (h : ∀ a, R (s.advance a) (t.advance a)) :
    alike R (keyTest x want s) (keyTest x want t) := by
  unfold keyTest
  rw [hv, hk]
  cases keyOperand (s.getV x) with
  | none => exact hlatch _
  | some k => exact h _

/-! ## Stale stack entries -/

/-- The state with another stack, at the same depth. -/
def State.withStack (s : State) (k : Vector StackWord Params.stackCapacity) : State := { s with stack := k }

/-- The stack agrees with the state's below SP. -/
def State.holdsSame (s : State) (k : Vector StackWord Params.stackCapacity) : Prop :=
  ∀ j, (h : j < Params.stackCapacity) → j < s.sp.val → k[j]'h = s.stack[j]'h

theorem sameButStaleStack_iff {s t : State} : sameButStaleStack s t ↔ ∃ k, s.holdsSame k ∧ t = s.withStack k :=
  ⟨fun h => ⟨t.stack, h.2, h.1⟩, fun ⟨_, hk, ht⟩ => ht ▸ ⟨rfl, hk⟩⟩

theorem sameButStaleStack_advance {s t : State} (a : Advance) (h : sameButStaleStack s t) :
    sameButStaleStack (s.advance a) (t.advance a) := by
  obtain ⟨k, hk, rfl⟩ := sameButStaleStack_iff.1 h
  cases a <;> exact ⟨rfl, hk⟩

theorem sameButStaleStack_setRegs {s : State} {k : Vector StackWord Params.stackCapacity} (bs : List Byte)
    (hk : s.holdsSame k) : sameButStaleStack (s.setRegs bs) ((s.withStack k).setRegs bs) := by
  unfold State.setRegs
  exact ⟨rfl, hk⟩

theorem sameButStaleStack_keyWaitPoll {s t : State} (h : sameButStaleStack s t) :
    sameButStaleStack (keyWaitPoll s) (keyWaitPoll t) := by
  obtain ⟨k, hk, rfl⟩ := sameButStaleStack_iff.1 h
  have hedges : (s.withStack k).pressEdges = s.pressEdges := rfl
  unfold keyWaitPoll
  rw [hedges]
  cases s.pressEdges <;> exact ⟨rfl, hk⟩

/-- A call pushes the same address on both stacks, in the slot at SP. -/
theorem alike_call_withStack (nnn : Addr12) {s : State} {k : Vector StackWord Params.stackCapacity} (hk : s.holdsSame k) :
    alike sameButStaleStack (exec (.call nnn) s) (exec (.call nnn) (s.withStack k)) := by
  by_cases h : s.sp.val < 16
  · rw [execCall_push nnn h, execCall_push (s := s.withStack k) nnn h]
    refine ⟨rfl, fun j hj hlt => ?_⟩
    have hsp : j < s.sp.val + 1 := hlt
    have hset : (k.set s.sp.val s.pc h)[j]'hj = (s.stack.set s.sp.val s.pc h)[j]'hj := by
      rw [Vector.getElem_set, Vector.getElem_set]
      split_ifs with heq
      · rfl
      · exact hk j hj (by omega)
    exact hset
  · have hfull : s.sp.val = 16 := by have := s.sp_le; omega
    rw [execCall_overflow nnn hfull, execCall_overflow (s := s.withStack k) nnn hfull]
    exact ⟨rfl, hk⟩

/-- A return pops the same address off both stacks, from the slot below SP. -/
theorem alike_ret_withStack {s : State} {k : Vector StackWord Params.stackCapacity} (hk : s.holdsSame k) :
    alike sameButStaleStack (exec .ret s) (exec .ret (s.withStack k)) := by
  by_cases h : 0 < s.sp.val
  · rw [execRet_pop h, execRet_pop (s := s.withStack k) h]
    have htop : k[s.sp.val - 1]'(isHeld h) = s.stack[s.sp.val - 1]'(isHeld h) := hk _ _ (by omega)
    have hpop : (s.withStack k).popToPc h = (s.popToPc h).withStack k := by
      simp only [State.popToPc, State.withStack, htop]
    rw [hpop]
    exact ⟨rfl, fun j hj hlt => hk j hj (hlt.trans_le (Nat.sub_le _ _))⟩
  · rw [execRet_underflow (by omega), execRet_underflow (s := s.withStack k) (Nat.eq_zero_of_not_pos h)]
    exact ⟨rfl, hk⟩

/-- Only the call and the return look at the stack. -/
theorem alike_exec_withStack (i : Instr) {s : State} {k : Vector StackWord Params.stackCapacity} (hk : s.holdsSame k) :
    alike sameButStaleStack (exec i s) (exec i (s.withStack k)) := by
  have hrel : sameButStaleStack s (s.withStack k) := ⟨rfl, hk⟩
  have hlatch : ∀ e, sameButStaleStack (s.latch e) ((s.withStack k).latch e) := fun e => ⟨rfl, hk⟩
  cases i
  case call nnn => exact alike_call_withStack nnn hk
  case ret => exact alike_ret_withStack hk
  case seImm | sneImm | seReg | sneReg => exact sameButStaleStack_advance _ hrel
  case skp x | sknp x => exact alike_keyTest x _ rfl rfl hlatch fun a => sameButStaleStack_advance a hrel
  case drw | ldB | storeRegs => exact alike_guardAccess _ rfl hlatch ⟨rfl, hk⟩
  case loadRegs =>
    exact alike_guardAccess _ rfl hlatch (sameButStaleStack_advance .single (sameButStaleStack_setRegs _ hk))
  all_goals exact ⟨rfl, hk⟩

theorem keptByParts_sameButStaleStack : KeptByParts sameButStaleStack where
  fault h := by obtain ⟨k, -, rfl⟩ := sameButStaleStack_iff.1 h; rfl
  waiting h := by obtain ⟨k, -, rfl⟩ := sameButStaleStack_iff.1 h; rfl
  schedule h := by obtain ⟨k, -, rfl⟩ := sameButStaleStack_iff.1 h; rfl
  fetchInstr h := by obtain ⟨k, -, rfl⟩ := sameButStaleStack_iff.1 h; rfl
  latch e h := by obtain ⟨k, hk, rfl⟩ := sameButStaleStack_iff.1 h; exact ⟨rfl, hk⟩
  reschedule rest h := by obtain ⟨k, hk, rfl⟩ := sameButStaleStack_iff.1 h; exact ⟨rfl, hk⟩
  storeBytes base bs h := by obtain ⟨k, hk, rfl⟩ := sameButStaleStack_iff.1 h; exact ⟨rfl, hk⟩
  countTimers h := by obtain ⟨k, hk, rfl⟩ := sameButStaleStack_iff.1 h; exact ⟨rfl, hk⟩
  moveKey j p h := by obtain ⟨k, hk, rfl⟩ := sameButStaleStack_iff.1 h; exact ⟨rfl, hk⟩
  clearKeyFrame h := by obtain ⟨k, hk, rfl⟩ := sameButStaleStack_iff.1 h; exact ⟨rfl, hk⟩
  clearDirty h := by obtain ⟨k, hk, rfl⟩ := sameButStaleStack_iff.1 h; exact ⟨rfl, hk⟩
  keyWaitPoll := sameButStaleStack_keyWaitPoll
  exec i h := by obtain ⟨k, hk, rfl⟩ := sameButStaleStack_iff.1 h; exact alike_exec_withStack i hk

/-! ## DIRTY and ST -/

/-- The state with other outputs. -/
def State.withOutputs (s : State) (d : Bool) (b : BitVec Params.stWidth) : State := { s with dirty := d, st := b }

theorem sameButOutputs_iff {s t : State} : sameButOutputs s t ↔ ∃ d b, t = s.withOutputs d b :=
  ⟨fun h => ⟨t.dirty, t.st, h⟩, fun ⟨_, _, ht⟩ => ht ▸ rfl⟩

theorem sameButOutputs_advance {s t : State} (a : Advance) (h : sameButOutputs s t) :
    sameButOutputs (s.advance a) (t.advance a) := by
  obtain ⟨d, b, rfl⟩ := sameButOutputs_iff.1 h
  cases a <;> rfl

theorem sameButOutputs_keyWaitPoll {s t : State} (h : sameButOutputs s t) : sameButOutputs (keyWaitPoll s) (keyWaitPoll t) := by
  obtain ⟨d, b, rfl⟩ := sameButOutputs_iff.1 h
  have hedges : (s.withOutputs d b).pressEdges = s.pressEdges := rfl
  unfold keyWaitPoll
  rw [hedges]
  cases s.pressEdges <;> rfl

/-- A framebuffer is its pixels. -/
theorem FrameBuffer.ext_get {fb fb' : FrameBuffer} (h : ∀ px py, px < 64 → py < 32 → fb.get px py = fb'.get px py) : fb = fb' := by
  refine Vector.ext fun px hpx => Vector.ext fun py hpy => ?_
  have hget := h px py hpx hpy
  simpa only [FrameBuffer.get, dif_pos (And.intro hpx hpy)] using hget

/-- The pixels a draw leaves do not depend on DIRTY. -/
theorem drawSprite_withOutputs_fb (s : State) (d : Bool) (b : BitVec Params.stWidth) (x y n : Nibble) :
    ((s.withOutputs d b).drawSprite x y n).fb = (s.drawSprite x y n).fb := by
  refine FrameBuffer.ext_get fun px py hpx hpy => ?_
  unfold State.drawSprite
  rw [get_drawRows _ _ _ _ hpx hpy, get_drawRows _ _ _ _ hpx hpy]
  rfl

/-- The collision of a draw does not depend on DIRTY. -/
theorem drawSprite_withOutputs_collision (s : State) (d : Bool) (b : BitVec Params.stWidth) (x y n : Nibble) :
    ((s.withOutputs d b).drawSprite x y n).collision = (s.drawSprite x y n).collision := by
  unfold State.drawSprite
  rw [Bool.eq_iff_iff, collision_drawRows, collision_drawRows]
  rfl

theorem sameButOutputs_putCanvas {s : State} {c c' : Canvas} (d : Bool) (b : BitVec Params.stWidth) (hfb : c'.fb = c.fb)
    (hcollision : c'.collision = c.collision) : sameButOutputs (s.putCanvas c) ((s.withOutputs d b).putCanvas c') := by
  unfold State.putCanvas
  rw [hfb, hcollision]
  rfl

/-- No instruction lets DIRTY or ST into any other part of the state. -/
theorem alike_exec_withOutputs (i : Instr) (s : State) (d : Bool) (b : BitVec Params.stWidth) :
    alike sameButOutputs (exec i s) (exec i (s.withOutputs d b)) := by
  have hrel : sameButOutputs s (s.withOutputs d b) := rfl
  have hlatch : ∀ e, sameButOutputs (s.latch e) ((s.withOutputs d b).latch e) := fun e => rfl
  cases i
  case call nnn =>
    by_cases h : s.sp.val < 16
    · rw [execCall_push nnn h, execCall_push (s := s.withOutputs d b) nnn h]
      rfl
    · have hfull : s.sp.val = 16 := by have := s.sp_le; omega
      rw [execCall_overflow nnn hfull, execCall_overflow (s := s.withOutputs d b) nnn hfull]
      rfl
  case ret =>
    by_cases h : 0 < s.sp.val
    · rw [execRet_pop h, execRet_pop (s := s.withOutputs d b) h]
      rfl
    · rw [execRet_underflow (by omega), execRet_underflow (s := s.withOutputs d b) (Nat.eq_zero_of_not_pos h)]
      rfl
  case seImm | sneImm | seReg | sneReg => exact sameButOutputs_advance _ hrel
  case skp x | sknp x => exact alike_keyTest x _ rfl rfl hlatch fun a => sameButOutputs_advance a hrel
  case drw x y n =>
    exact alike_guardAccess _ rfl hlatch (sameButOutputs_advance .single (sameButOutputs_putCanvas d b
      (drawSprite_withOutputs_fb s d b x y n) (drawSprite_withOutputs_collision s d b x y n)))
  case ldB | storeRegs | loadRegs => exact alike_guardAccess _ rfl hlatch rfl
  all_goals rfl

theorem keptByParts_sameButOutputs : KeptByParts sameButOutputs where
  fault h := by obtain ⟨d, b, rfl⟩ := sameButOutputs_iff.1 h; rfl
  waiting h := by obtain ⟨d, b, rfl⟩ := sameButOutputs_iff.1 h; rfl
  schedule h := by obtain ⟨d, b, rfl⟩ := sameButOutputs_iff.1 h; rfl
  fetchInstr h := by obtain ⟨d, b, rfl⟩ := sameButOutputs_iff.1 h; rfl
  latch e h := by obtain ⟨d, b, rfl⟩ := sameButOutputs_iff.1 h; rfl
  reschedule rest h := by obtain ⟨d, b, rfl⟩ := sameButOutputs_iff.1 h; rfl
  storeBytes base bs h := by obtain ⟨d, b, rfl⟩ := sameButOutputs_iff.1 h; rfl
  countTimers h := by obtain ⟨d, b, rfl⟩ := sameButOutputs_iff.1 h; rfl
  moveKey j p h := by obtain ⟨d, b, rfl⟩ := sameButOutputs_iff.1 h; rfl
  clearKeyFrame h := by obtain ⟨d, b, rfl⟩ := sameButOutputs_iff.1 h; rfl
  clearDirty h := by obtain ⟨d, b, rfl⟩ := sameButOutputs_iff.1 h; rfl
  keyWaitPoll := sameButOutputs_keyWaitPoll
  exec i h := by obtain ⟨d, b, rfl⟩ := sameButOutputs_iff.1 h; exact alike_exec_withOutputs i _ d b

/-! ## The statements -/

/-- Settles O58: every part of a step keeps the relation. -/
theorem staleStackIsUnobservable : Obligations.StaleStackIsUnobservable :=
  fun _ _ => keptByParts_sameButStaleStack.step

/-- Settles O59: every part of a step keeps the relation. -/
theorem outputsAreUnobservable : Obligations.OutputsAreUnobservable :=
  fun _ _ => keptByParts_sameButOutputs.step

end Sys2Proof.Machine
end

section
/-! PROOFS. The jumps, the call and the return of spec/41_control_flow.md (R60 to R63), and the key tests and the key-wait of
spec/45_timers_keys.md (R92 to R94). -/

namespace Sys2Proof.Machine

/-! ## Jumps, call and return -/

theorem exec_jp (nnn : Addr12) (s : State) : exec (.jp nnn) s = .next (s.setPc (addrOperand nnn)) := rfl

theorem exec_jpV0 (nnn : Addr12) (s : State) : exec (.jpV0 nnn) s = .next (s.setPc (offsetTarget (s.getV 0) nnn)) := rfl

theorem popToPc_push_setPc (s : State) (w : PcWord) (h : s.sp.val < 16) (hpos : 0 < ((s.push s.pc h).setPc w).sp.val) :
    (((s.push s.pc h).setPc w).popToPc hpos).pc = s.pc := by
  rw [State.popToPc_pc]
  exact Vector.getElem_set_self h

/-! ## Key tests and the key-wait -/

theorem keyTest_key {x : Nibble} {k : KeyIndex} {s : State} (want : Bool) (h : (s.getV x).toNat = k.val) :
    keyTest x want s = .next (s.advance (skipIf ((s.getKey k).isPressed == want))) := by
  simp only [keyTest, keyOperand_key h]

theorem keyTest_outOfRange {x : Nibble} {s : State} (want : Bool) (h : 0xF < (s.getV x).toNat) :
    keyTest x want s = .next (s.latch (.keyIndexOutOfRange (s.getV x))) := by
  simp only [keyTest, keyOperand_none h, raise_eq]

/-- A key is down in Pressed and in Held (60_exceptions.md R109). -/
theorem KeyState.isPressed_iff (q : KeyState) : q.isPressed = true ↔ q = .pressed ∨ q = .held := by cases q <;> decide

theorem KeyState.isPressed_eq_false_iff (q : KeyState) : q.isPressed = false ↔ q = .released := by cases q <;> decide

theorem exec_ldVxK (x : Nibble) (s : State) : exec (.ldVxK x) s = .next (s.startKeyWait x) := rfl

/-! ## The statements -/

/-- Settles O13: 1nnn is a write of the zero-extended nnn to PC. -/
theorem jpSetsPc : Obligations.JpSetsPc := by
  intro s nnn
  have hframe := exec_frame (exec_jp nnn s) rfl
  have hpc : (addrOperand nnn : PcWord).toNat = nnn.toNat := toNat_addrOperand (by decide) nnn
  refine ⟨decodeWord_encodeWord (.jp nnn), _, exec_jp nnn s, hpc, hframe.registers, hframe.parts, fun hlast => ?_⟩
  subst hlast
  have hhigh : 0xFFE < (addrOperand (0xFFF : Addr12) : PcWord).toNat := by decide
  exact State.fetch_error hhigh

/-- Settles O14: the two branches of the call. -/
theorem callPushesOwnAddressOrOverflows : Obligations.CallPushesOwnAddressOrOverflows := by
  intro s nnn
  refine ⟨decodeWord_encodeWord (.call nnn), fun h => ?_, execCall_overflow nnn⟩
  have hframe := exec_frame (execCall_push nnn h) rfl
  exact ⟨_, execCall_push nnn h, rfl, Vector.getElem_set_self h, fun j hj hne => Vector.getElem_set_ne h hj (Ne.symm hne),
    toNat_addrOperand (by decide) nnn, hframe.registers, hframe.parts⟩

/-- Settles O15: the two branches of the return. -/
theorem retPopsOrUnderflows : Obligations.RetPopsOrUnderflows := by
  intro s
  refine ⟨fun h => ?_, execRet_underflow⟩
  have hframe := exec_frame (execRet_pop h) rfl
  have hpc : ((s.popToPc h).advance .single).pc = s.stack[s.sp.val - 1]'(isHeld h) + 2 := by
    rw [State.advance_pc_single, State.popToPc_pc]
  exact ⟨_, execRet_pop h, rfl, hpc, rfl, hframe.registers, hframe.parts⟩

/-- Settles O16: the return pops what the call pushed. -/
theorem returnResumesBehindCall : Obligations.ReturnResumesBehindCall := by
  intro s nnn h
  have hcall := execCall_push nnn h
  have hpos : 0 < ((s.push s.pc h).setPc (addrOperand nnn)).sp.val := Nat.succ_pos _
  have hret := execRet_pop hpos
  have hframe := (exec_frame hcall rfl).trans (exec_frame hret rfl)
  refine ⟨_, _, hcall, hret, ?_, rfl, hframe.registers, (hframe.mono (by simp [Instr.writes])).parts⟩
  rw [State.advance_pc_single, popToPc_push_setPc]

/-- Settles O17: Bnnn is a write of the sum, which 16 bits hold, to PC. -/
theorem jpV0AddsWithoutWrap : Obligations.JpV0AddsWithoutWrap := by
  intro s nnn
  have hframe := exec_frame (exec_jpV0 nnn s) rfl
  exact ⟨decodeWord_encodeWord (.jpV0 nnn), _, exec_jpV0 nnn s, toNat_offsetTarget _ _, hframe.registers, hframe.parts⟩

/-- Settles O41: the two branches of a key test. -/
theorem keyTestsSkipOrTrap : Obligations.KeyTestsSkipOrTrap := by
  intro s x
  refine ⟨decodeWord_encodeWord (.skp x), decodeWord_encodeWord (.sknp x), fun k hk => ?_,
    fun h => ⟨keyTest_outOfRange true h, keyTest_outOfRange false h⟩⟩
  refine ⟨_, _, keyTest_key true hk, keyTest_key false hk, ?_, ?_, ?_⟩
  · simp only [State.advance_pc_skipIf, beq_iff_eq, KeyState.isPressed_iff]
  · simp only [State.advance_pc_skipIf, beq_iff_eq, KeyState.isPressed_eq_false_iff]
  · simp only [List.forall_mem_cons]
    exact ⟨⟨s.registersKeptBut_advance _, s.unchangedBut_advance _⟩, ⟨s.registersKeptBut_advance _, s.unchangedBut_advance _⟩,
      List.forall_mem_nil _⟩

/-- Settles O42: Fx0A begins the key-wait and nothing else. -/
theorem ldVxKStartsKeyWait : Obligations.LdVxKStartsKeyWait := by
  intro s x
  have hframe := s.frame_startKeyWait x
  exact ⟨decodeWord_encodeWord (.ldVxK x), _, exec_ldVxK x s, rfl, rfl, hframe.registers, hframe.parts⟩

end Sys2Proof.Machine
end

section
/-! PROOFS. The logic operations, the shifts and the random byte of spec/42_alu.md (R73 to R75, R78, R80, R81). -/

namespace Sys2Proof.Machine

/-! ## The instructions as register writes -/

theorem exec_orReg (x y : Nibble) (s : State) :
    exec (.orReg x y) s = .next ((s.setV x (s.getV x ||| s.getV y)).advance .single) := rfl

theorem exec_andReg (x y : Nibble) (s : State) :
    exec (.andReg x y) s = .next ((s.setV x (s.getV x &&& s.getV y)).advance .single) := rfl

theorem exec_xorReg (x y : Nibble) (s : State) :
    exec (.xorReg x y) s = .next ((s.setV x (s.getV x ^^^ s.getV y)).advance .single) := rfl

theorem exec_shr (x y : Nibble) (s : State) :
    exec (.shr x y) s = .next (s.resultAndFlag x (s.getV x >>> 1) (lowBitFlag (s.getV x))) := rfl

theorem exec_shl (x y : Nibble) (s : State) :
    exec (.shl x y) s = .next (s.resultAndFlag x (s.getV x <<< 1) (highBitFlag (s.getV x))) := rfl

theorem exec_rnd (x : Nibble) (kk : Byte) (s : State) :
    exec (.rnd x kk) s = .next (((s.setV x (Config.rnd s.draws &&& kk)).nextDraw).advance .single) := by
  simp only [exec, execRnd, immOperand_eq, State.rndByte]

/-! ## The bits shifted out as arithmetic -/

theorem toNat_flagByte (b : Bool) : (flagByte b).toNat = b.toNat := by cases b <;> rfl

theorem toNat_lowBitFlag (a : VByte) : (flagByte (lowBitFlag a)).toNat = a.toNat % 2 := by
  rw [toNat_flagByte, lowBitFlag, BitVec.getLsbD, Nat.testBit_zero]
  obtain h | h := Nat.mod_two_eq_zero_or_one a.toNat <;> simp [h]

theorem toNat_highBitFlag (a : VByte) : (flagByte (highBitFlag a)).toNat = a.toNat / 128 := by
  have ha : a.toNat < 256 := a.isLt
  have hbit : highBitFlag a = decide (128 ≤ a.toNat) := by
    rw [highBitFlag, ← BitVec.msb_eq_getLsbD_last, BitVec.msb_eq_decide]
    rfl
  rw [toNat_flagByte, hbit]
  by_cases h : 128 ≤ a.toNat
  · rw [decide_eq_true h, Bool.toNat_true]
    omega
  · rw [decide_eq_false h, Bool.toNat_false]
    omega

/-! ## The statements -/

/-- Settles O25: three register writes, read bit by bit. -/
theorem logicIsBitwiseWithoutFlag : Obligations.LogicIsBitwiseWithoutFlag := by
  intro s x y
  obtain ⟨t, ht, htx, htframe⟩ := exec_setV (exec_orReg x y s)
  obtain ⟨u, hu, hux, huframe⟩ := exec_setV (exec_andReg x y s)
  obtain ⟨v, hv, hvx, hvframe⟩ := exec_setV (exec_xorReg x y s)
  refine ⟨decodeWord_encodeWord (.orReg x y), decodeWord_encodeWord (.andReg x y), decodeWord_encodeWord (.xorReg x y),
    t, u, v, ht, hu, hv, fun b _ => ⟨?_, ?_, ?_⟩, ?_⟩
  · rw [htx, BitVec.getLsbD_or]
  · rw [hux, BitVec.getLsbD_and]
  · rw [hvx, BitVec.getLsbD_xor]
  · simp only [List.forall_mem_cons]
    exact ⟨htframe, huframe, hvframe, List.forall_mem_nil _⟩

/-- Settles O29: two result-and-flag writes of Vx, with the lost bit as a remainder or a quotient. -/
theorem shiftsMoveVxAndKeepTheLostBit : Obligations.ShiftsMoveVxAndKeepTheLostBit := by
  intro s x y
  obtain ⟨t, ht, htflag, htx, htframe⟩ := exec_resultAndFlag (exec_shr x y s)
  obtain ⟨u, hu, huflag, hux, huframe⟩ := exec_resultAndFlag (exec_shl x y s)
  refine ⟨decodeWord_encodeWord (.shr x y), decodeWord_encodeWord (.shl x y), t, u, ht, hu,
    htflag ▸ toNat_lowBitFlag _, huflag ▸ toNat_highBitFlag _, fun hx => ⟨?_, ?_⟩, ?_⟩
  · rw [htx hx, BitVec.toNat_ushiftRight, Nat.shiftRight_eq_div_pow]
  · rw [hux hx, BitVec.toNat_shiftLeft, Nat.shiftLeft_eq, Nat.mul_comm]
    rfl
  · simp only [List.forall_mem_cons]
    exact ⟨htframe, huframe, List.forall_mem_nil _⟩

/-- Settles O30: a register write of the masked draw, and the draw counted. -/
theorem rndMasksAFreshByte : Obligations.RndMasksAFreshByte := by
  intro s x kk
  have hframe := exec_frame (exec_rnd x kk s) rfl
  have hres : (((s.setV x (Config.rnd s.draws &&& kk)).nextDraw).advance .single).getV x = Config.rnd s.draws &&& kk := by
    simp
  refine ⟨decodeWord_encodeWord (.rnd x kk), _, exec_rnd x kk s, hres, fun b hb => ?_, rfl, hframe.registers, rfl, hframe.parts⟩
  rw [hres, BitVec.getLsbD_and, hb, Bool.and_false]

end Sys2Proof.Machine
end

section
/-! PROOFS. The index register, the block accesses and the traps of spec/43_index_memory.md (R83 to R87), and a store seen by the next
fetch (20_memory.md section 5). -/

namespace Sys2Proof.Machine

/-! ## The index register -/

theorem exec_addI (x : Nibble) (s : State) :
    exec (.addI x) s =
      .next (((s.setI (s.i + byteOperand (s.getV x))).setFlag (rangeFlag s.i (s.getV x))).advance .single) := rfl

theorem exec_ldF (x : Nibble) (s : State) : exec (.ldF x) s = .next ((s.setI (glyphAddr (s.getV x))).advance .single) := rfl

/-- The zero-extension to a register of at least 8 bits keeps the byte (00_scope.md R8). -/
theorem toNat_byteOperand {w : Nat} (hw : 8 ≤ w) (b : VByte) : (byteOperand b : BitVec w).toNat = b.toNat :=
  BitVec.toNat_setWidth_of_le hw

theorem toNat_glyphAddr (v : VByte) : (glyphAddr v).toNat = 5 * v.toNat := by
  have hv : v.toNat < 256 := v.isLt
  have hbyte : (byteOperand v : IndexWord).toNat = v.toNat := toNat_byteOperand (by decide) v
  have hfive : (BitVec.ofNat Params.iWidth Params.glyphBytes).toNat = 5 := rfl
  rw [glyphAddr, BitVec.toNat_mul, hbyte, hfive, Nat.mul_comm]
  exact Nat.mod_eq_of_lt (by rw [Params.iWidth_eq]; omega)

/-! ## Block accesses in memory -/

theorem exec_ldB {s : State} (x : Nibble) (h : s.i.toNat + 2 ≤ 0xFFF) :
    exec (.ldB x) s = .next ((s.storeBytes s.i.toNat (bcdDigits (s.getV x))).advance .single) :=
  guardAccess_ok _ (.inr (by omega))

theorem exec_storeRegs {s : State} {x : Nibble} (h : s.i.toNat + x.toNat ≤ 0xFFF) :
    exec (.storeRegs x) s = .next ((s.storeBytes s.i.toNat (s.regsUpTo x)).advance .single) :=
  guardAccess_ok _ (.inr (by rw [blockLength]; omega))

theorem exec_loadRegs {s : State} {x : Nibble} (h : s.i.toNat + x.toNat ≤ 0xFFF) :
    exec (.loadRegs x) s = .next ((s.setRegs (s.mem.readBytes s.i.toNat (blockLength x))).advance .single) :=
  guardAccess_ok _ (.inr (by rw [blockLength]; omega))

/-- The k-th byte of a block stored at base, once PC has advanced. -/
theorem readMem_advance_storeBytes (s : State) (base k : Nat) {bs : List Byte} (hk : k < bs.length) :
    ((s.storeBytes base bs).advance .single).readMem (base + k) = bs.getD k 0 := by
  rw [State.advance_readMem, State.readMem_storeBytes, if_pos (by omega), Nat.add_sub_cancel_left]

theorem memoryKeptOutside_advance_storeBytes (s : State) (base : Nat) (bs : List Byte) (a : Advance) :
    memoryKeptOutside base bs.length s ((s.storeBytes base bs).advance a) := by
  intro b hb
  rw [State.advance_readMem, State.readMem_storeBytes, if_neg hb]

theorem toNat_ofNat_byte {n : Nat} (h : n < 256) : (BitVec.ofNat 8 n).toNat = n := Nat.mod_eq_of_lt h

/-! ## Accesses that leave memory -/

/-- The smallest bad address: the first one above memory, or I when I is above memory (60_exceptions.md Table E). -/
theorem firstBadAddress_eq (i : Nat) : max i 0x1000 = if i ≤ 0xFFF then 0x1000 else i := by
  split_ifs <;> omega

theorem guardAccess_outside {s : State} {n : Nat} (t : State) (h0 : n ≠ 0) (h : 0xFFF < s.i.toNat + n - 1) :
    guardAccess s n t = .next (s.latch (.addressOutOfRange (if s.i.toNat ≤ 0xFFF then 0x1000 else s.i.toNat))) := by
  rw [guardAccess_trap t h0 (by omega), firstBadAddress_eq]

/-! ## A store and the fetch behind it -/

theorem decimalBlock_eq (v : VByte) : decimalBlock v = bcdDigits v := rfl

/-- V0 to Vx as a list of register reads are the first x + 1 registers. -/
theorem registerBlock_eq (s : State) (x : Nibble) : s.registerBlock x = s.regsUpTo x := by
  refine List.ext_getElem (by simp [State.registerBlock]) fun k hk hk' => ?_
  have hkx : k ≤ x.toNat := by simpa [State.registerBlock, Nat.lt_succ_iff] using hk
  have hk16 : k < 16 := lt_of_le_of_lt hkx x.isLt
  simp [State.registerBlock, State.regsUpTo, State.getV, Nat.mod_eq_of_lt hk16]

/-- Behind a store the fetch reads the block where it covers the two bytes, and the bytes there before where it does not. -/
theorem fetch_advance_storeBytes {s : State} (bs : List Byte) (hpc : s.pc.toNat ≤ 0xFFC) :
    ((s.storeBytes s.i.toNat bs).advance .single).fetch =
      .ok (wordOfBytes (byteAfterStore s bs (s.pc.toNat + 2)) (byteAfterStore s bs (s.pc.toNat + 3))) := by
  have hnext : ((s.storeBytes s.i.toNat bs).advance .single).pc.toNat = s.pc.toNat + 2 := by
    have htwo : (2 : PcWord).toNat = 2 := rfl
    rw [State.advance_pc_single, State.storeBytes_pc, BitVec.toNat_add, htwo]
    exact Nat.mod_eq_of_lt (by simp only [Params.pcWidth_eq]; omega)
  rw [State.fetch_ok (by omega), hnext]
  simp only [State.advance_readMem, State.readMem_storeBytes, byteAfterStore]

/-! ## The statements -/

/-- Settles O32: a write of the 16-bit sum to I, and of the range flag to VF. -/
theorem addIFlagsRangeOverflow : Obligations.AddIFlagsRangeOverflow := by
  intro s x
  have hframe := exec_frame (exec_addI x s) rfl
  have hbyte : (byteOperand (s.getV x) : IndexWord).toNat = (s.getV x).toNat := toNat_byteOperand (by decide) _
  have hflag : flagByte (rangeFlag s.i (s.getV x)) = if s.i.toNat + (s.getV x).toNat > 0xFFF then 1 else 0 := by
    simp [flagByte, rangeFlag]
  refine ⟨decodeWord_encodeWord (.addI x), _, exec_addI x s, ?_, ?_, hframe.registers, rfl, hframe.parts⟩
  · rw [State.advance_i, State.setFlag_i, State.setI_i, BitVec.toNat_add, hbyte]
    rfl
  · rw [State.advance_getV, State.getV_setFlag, if_pos rfl, hflag]

/-- Settles O33: a write of the product, which 16 bits hold, to I. -/
theorem ldFPointsAtGlyph : Obligations.LdFPointsAtGlyph := by
  intro s x
  obtain ⟨t, ht, hi, hframe⟩ := exec_setI (exec_ldF x s)
  exact ⟨decodeWord_encodeWord (.ldF x), t, ht, hi ▸ toNat_glyphAddr _, hframe⟩

/-- Settles O34: a store of the three digits. -/
theorem ldBStoresDecimalDigits : Obligations.LdBStoresDecimalDigits := by
  intro s x
  refine ⟨decodeWord_encodeWord (.ldB x), fun h => ?_⟩
  have hframe := exec_frame (exec_ldB x h) rfl
  have hread : ∀ k, k < 3 → ((s.storeBytes s.i.toNat (bcdDigits (s.getV x))).advance .single).readMem (s.i.toNat + k) =
      (bcdDigits (s.getV x)).getD k 0 := fun k hk => readMem_advance_storeBytes s _ k hk
  have hv := s.getV_lt x
  refine ⟨_, exec_ldB x h, ?_, ?_, ?_, memoryKeptOutside_advance_storeBytes s _ (bcdDigits (s.getV x)) _, hframe.registers, rfl,
    hframe.parts⟩
  · exact (congrArg BitVec.toNat (hread 0 (by decide))).trans (toNat_ofNat_byte (by omega))
  · exact (congrArg BitVec.toNat (hread 1 (by decide))).trans (toNat_ofNat_byte (by omega))
  · exact (congrArg BitVec.toNat (hread 2 (by decide))).trans (toNat_ofNat_byte (by omega))

/-- Settles O35: a store of V0 to Vx. -/
theorem storeRegsCopiesToMemory : Obligations.StoreRegsCopiesToMemory := by
  intro s x
  refine ⟨decodeWord_encodeWord (.storeRegs x), fun h => ?_⟩
  have hframe := exec_frame (exec_storeRegs h) rfl
  have hlen := s.length_regsUpTo x
  refine ⟨_, exec_storeRegs h, fun k hk => ?_, ?_, hframe.registers, rfl, hframe.parts⟩
  · rw [readMem_advance_storeBytes s _ _ (by omega), s.getD_regsUpTo x k hk]
  · rw [← hlen]
    exact memoryKeptOutside_advance_storeBytes s _ _ _

/-- Settles O36: a write of the block to the registers from V0 up. -/
theorem loadRegsCopiesFromMemory : Obligations.LoadRegsCopiesFromMemory := by
  intro s x
  refine ⟨decodeWord_encodeWord (.loadRegs x), fun h => ?_⟩
  have hframe := exec_frame (exec_loadRegs h) (by rw [State.advance_fault, State.setRegs_fault])
  refine ⟨_, exec_loadRegs h, fun k hk => ?_, fun k hk => hframe.registers k ?_, ?_, hframe.parts⟩
  · have hblock : k.toNat < blockLength x := Nat.lt_succ_of_le hk
    rw [State.advance_getV, State.getV_setRegs, Memory.getD_readBytes, if_pos hblock]
    rfl
  · rw [Instr.mem_destinations_loadRegs]
    omega
  · rw [State.advance_pc_single, State.setRegs_pc]

/-- Settles O37: each of the four goes through the access check. -/
theorem accessOutsideMemoryTraps : Obligations.AccessOutsideMemoryTraps := by
  rintro s x y n t rfl
  refine ⟨fun h => ?_, fun h => ⟨?_, ?_⟩, fun hn h => ?_⟩
  · exact guardAccess_outside _ (by decide) (by omega)
  · exact guardAccess_outside _ (Nat.succ_ne_zero _) (by rw [blockLength]; omega)
  · exact guardAccess_outside _ (Nat.succ_ne_zero _) (by rw [blockLength]; omega)
  · exact guardAccess_outside _ (Nat.ne_of_gt hn) (by omega)

/-- Settles O38: the block each instruction stores, read by the fetch behind it. -/
theorem storedCodeIsFetchedNext : Obligations.StoredCodeIsFetchedNext := by
  intro s x hpc
  constructor
  · intro h
    rw [registerBlock_eq]
    exact ⟨_, exec_storeRegs h, fetch_advance_storeBytes _ hpc⟩
  · intro h
    rw [decimalBlock_eq]
    exact ⟨_, exec_ldB x h, fetch_advance_storeBytes _ hpc⟩

end Sys2Proof.Machine
end

section
/-! PROOFS. The sprite draw of spec/44_display.md (R89, R90): the loop equals the pixelwise description. -/

namespace Sys2Proof.Machine

theorem exec_drw {s : State} {n : Nibble} (x y : Nibble) (h : n.toNat = 0 ∨ s.i.toNat + n.toNat - 1 ≤ 0xFFF) :
    exec (.drw x y n) s = .next ((s.putCanvas (s.drawSprite x y n)).advance .single) :=
  guardAccess_ok _ (by omega)

theorem flagByte_eq_one_iff (b : Bool) : flagByte b = 1 ↔ b = true := by cases b <;> decide

theorem flagByte_eq_zero_or_one (b : Bool) : flagByte b = 0 ∨ flagByte b = 1 := by cases b <;> decide

theorem drawSprite_fb_get (s : State) (x y n : Nibble) {px py : Nat} (hpx : px < 64) (hpy : py < 32) :
    (s.drawSprite x y n).fb.get px py = (s.fb.get px py != spriteCovers s x y n px py) := by
  rw [State.drawSprite, get_drawRows _ _ _ _ hpx hpy, spriteCovers_eq_rowsCover]

theorem drawSprite_collision (s : State) (x y n : Nibble) :
    (s.drawSprite x y n).collision = true ↔
      ∃ px py, px < 64 ∧ py < 32 ∧ spriteCovers s x y n px py = true ∧ s.fb.get px py = true := by
  simp only [State.drawSprite, collision_drawRows, spriteCovers_eq_rowsCover, Bool.false_eq_true, false_or]

theorem drawSprite_dirty (s : State) (x y n : Nibble) :
    (s.drawSprite x y n).dirty = true ↔
      s.dirty = true ∨ ∃ px py, px < 64 ∧ py < 32 ∧ spriteCovers s x y n px py = true := by
  simp only [State.drawSprite, dirty_drawRows, spriteCovers_eq_rowsCover]

/-- Settles O40: the canvas after the loop, pixel by pixel. -/
theorem drawIsPixelwiseXor : Obligations.DrawIsPixelwiseXor := by
  intro s x y n
  refine ⟨decodeWord_encodeWord (.drw x y n), fun h => ?_⟩
  have hframe := exec_frame (exec_drw x y h) rfl
  have hvf : ((s.putCanvas (s.drawSprite x y n)).advance .single).getV 0xF = flagByte (s.drawSprite x y n).collision := by
    rw [State.advance_getV, State.getV_putCanvas, if_pos rfl]
  refine ⟨_, exec_drw x y h, fun px py hpx hpy => drawSprite_fb_get s x y n hpx hpy, ?_, ?_, drawSprite_dirty s x y n,
    hframe.registers, rfl, hframe.parts⟩
  · rw [hvf, flagByte_eq_one_iff, drawSprite_collision]
  · rw [hvf]
    exact flagByte_eq_zero_or_one _

end Sys2Proof.Machine
end
